-- ==== Sys2Proof/Word.lean ====
section
/-! DEFINITION. The word types of the block: bytes, register offsets, access words, harness registers. -/

namespace Sys2Proof

/-- Every host-visible register is 8 bits wide (10_state.md R20), and so are the harness registers (R200). -/
abbrev Byte := BitVec 8

/-- A byte offset from `BASE`, 0x0 to 0xF (R80 field OFF). -/
abbrev Offset := BitVec 4

/-- One host register access, `RW : OFF : DATA`, 13 bits (R80). -/
abbrev AccessWord := BitVec 13

/-- A 16-bit host byte address (R48). -/
abbrev HostAddr := BitVec 16

/-- The number of a harness register, `h0` to `h7` (R200). -/
abbrev HReg := Fin 8

end Sys2Proof
end

