-- ==== Sys2Proof/Syntax.lean ====
section
/-! DEFINITION. The instructions: one constructor for each row of spec/opcode_table.json, and the statements of the
host harness. -/

namespace Sys2Proof

/-- One constructor for each row of the opcode table, in the table's order.

ACCESS rows carry the bits their row leaves open: the byte written, or the ignored DATA byte of a read (R80).
STEP and WAIT rows carry the draw of the step (R10): the ACK bit `k`, the received byte `v`, the mask `m` of pulsed
lines, the wake `spurious`. -/
inductive Instr where
  -- ACCESS, commands (R82) and reserved commands (R83)
  | i2cNop
  | i2cInit
  | i2cWrite
  | i2cReadreg
  | ctrlReserved0407 (d : BitVec 2)
  | ctrlReserved080F (d : BitVec 3)
  | ctrlReserved101F (d : BitVec 4)
  | ctrlReserved203F (d : BitVec 5)
  | ctrlReserved407F (d : BitVec 6)
  | ctrlReserved80FF (d : BitVec 7)
  -- ACCESS, writes (R81)
  | wrStatus (v : Byte)
  | wrSaddr (v : Byte)
  | wrLen (v : Byte)
  | wrBufl (v : Byte)
  | wrBufh (v : Byte)
  | wrRegidx (v : Byte)
  | wrRxdata (v : Byte)
  | wrClkdiv (v : Byte)
  | wrCfg (v : Byte)
  | wrIfg (v : Byte)
  | wrEvbits (v : Byte)
  | evPost (v : Byte)
  | wrEvtake (v : Byte)
  -- ACCESS, reads (R81); `x` is the ignored DATA byte
  | rdCtrl (x : Byte)
  | rdStatus (x : Byte)
  | rdSaddr (x : Byte)
  | rdLen (x : Byte)
  | rdBufl (x : Byte)
  | rdBufh (x : Byte)
  | rdRegidx (x : Byte)
  | rdRxdata (x : Byte)
  | rdClkdiv (x : Byte)
  | rdCfg (x : Byte)
  | rdIfg (x : Byte)
  | rdEvbits (x : Byte)
  | rdEvset (x : Byte)
  | evTake (x : Byte)
  -- ACCESS, offsets 0xE and 0xF (R84): `write` is bit 12, `odd` is bit 8, `x` is DATA
  | offReserved (write odd : Bool) (x : Byte)
  -- STEP (R89)
  | busAddrAck (k : Bool)
  | busDataAck (k : Bool)
  | busRxByte (v : Byte)
  | engSvcRx
  | engSvcTx
  | engSvcNack
  | engSvcStop
  | prodEvIn (m : BitVec 4)
  -- WAIT (R201, R202)
  | hostWaitdone
  | hostSleep (spurious : Bool)
  -- HARNESS (R203 to R214); `l` is a statement index
  | harnessLi (n : HReg) (imm : Byte)
  | harnessWr (off : Offset) (imm : Byte)
  | harnessWrr (off : Offset) (n : HReg)
  | harnessRd (n : HReg) (off : Offset)
  | harnessAddi (n : HReg) (imm : Byte)
  | harnessAndi (n : HReg) (imm : Byte)
  | harnessBeqz (n : HReg) (l : Nat)
  | harnessBnez (n : HReg) (l : Nat)
  | harnessBeqi (n : HReg) (imm : Byte) (l : Nat)
  | harnessJmp (l : Nat)
  | harnessLog (n : HReg)
  | harnessHalt
deriving DecidableEq, Repr

/-- A statement of a harness program (R200): what the program text holds. It has no draw in it; the draw of `sleep`
belongs to the step that executes it (R202). -/
inductive Stmt where
  | waitdone
  | sleep
  | li (n : HReg) (imm : Byte)
  | wr (off : Offset) (imm : Byte)
  | wrr (off : Offset) (n : HReg)
  | rd (n : HReg) (off : Offset)
  | addi (n : HReg) (imm : Byte)
  | andi (n : HReg) (imm : Byte)
  | beqz (n : HReg) (l : Nat)
  | bnez (n : HReg) (l : Nat)
  | beqi (n : HReg) (imm : Byte) (l : Nat)
  | jmp (l : Nat)
  | log (n : HReg)
  | halt
deriving DecidableEq, Repr

end Sys2Proof
end

