-- ==== Sys2Proof/WellFormed.lean ====
section
/-! DEFINITION. The checks on an instruction that its operand types do not already make. -/

namespace Sys2Proof

/-- PROD.EV_IN posts a NON-EMPTY set of lines (R151). Every other operand's range is its type. -/
def Instr.wellFormed : Instr → Bool
  | .prodEvIn m => m != 0
  | .i2cNop | .i2cInit | .i2cWrite | .i2cReadreg
  | .ctrlReserved0407 _ | .ctrlReserved080F _ | .ctrlReserved101F _
  | .ctrlReserved203F _ | .ctrlReserved407F _ | .ctrlReserved80FF _
  | .wrStatus _ | .wrSaddr _ | .wrLen _ | .wrBufl _ | .wrBufh _ | .wrRegidx _ | .wrRxdata _
  | .wrClkdiv _ | .wrCfg _ | .wrIfg _ | .wrEvbits _ | .evPost _ | .wrEvtake _
  | .rdCtrl _ | .rdStatus _ | .rdSaddr _ | .rdLen _ | .rdBufl _ | .rdBufh _ | .rdRegidx _ | .rdRxdata _
  | .rdClkdiv _ | .rdCfg _ | .rdIfg _ | .rdEvbits _ | .rdEvset _ | .evTake _ | .offReserved _ _ _
  | .busAddrAck _ | .busDataAck _ | .busRxByte _
  | .engSvcRx | .engSvcTx | .engSvcNack | .engSvcStop
  | .hostWaitdone | .hostSleep _
  | .harnessLi _ _ | .harnessWr _ _ | .harnessWrr _ _ | .harnessRd _ _ | .harnessAddi _ _ | .harnessAndi _ _
  | .harnessBeqz _ _ | .harnessBnez _ _ | .harnessBeqi _ _ _ | .harnessJmp _ | .harnessLog _ | .harnessHalt => true

end Sys2Proof
end

