-- ==== Sys2Proof/Decode.lean ====
section
/-! DEFINITION. The decoder and the encoder of host access words (30_encoding.md R80 to R84), the opcode table's
rows, and what instruction a harness statement stands for (R91, R200). -/

namespace Sys2Proof

/-! ## The fields of an access word (R80) -/

/-- `RW : OFF`, bits 12:8. -/
def AccessWord.rwOff (w : AccessWord) : BitVec 5 := w.extractLsb' 8 5

/-- `DATA`, bits 7:0. -/
def AccessWord.data (w : AccessWord) : Byte := w.extractLsb' 0 8

/-- The access word `rwOff : v`. -/
def accessWord (rwOff : BitVec 5) (v : Byte) : AccessWord := rwOff ++ v

/-- The host write access `1 : off : v` (R91). -/
def writeWord (off : Offset) (v : Byte) : AccessWord := accessWord (1#1 ++ off) v

/-- The host read access `0 : off : x`; the spec's examples write `x` as 0 (R80). -/
def readWord (off : Offset) (x : Byte) : AccessWord := accessWord (0#1 ++ off) x

/-! ## Decoding -/

/-- The command a write of `v` to CTRL selects (R82), or the reserved row it falls in (R83). -/
def decodeCommand (v : Byte) : Instr :=
  if v = 0x00 then .i2cNop
  else if v = 0x01 then .i2cInit
  else if v = 0x02 then .i2cWrite
  else if v = 0x03 then .i2cReadreg
  else if v.extractLsb' 2 6 = 1 then .ctrlReserved0407 (v.extractLsb' 0 2)
  else if v.extractLsb' 3 5 = 1 then .ctrlReserved080F (v.extractLsb' 0 3)
  else if v.extractLsb' 4 4 = 1 then .ctrlReserved101F (v.extractLsb' 0 4)
  else if v.extractLsb' 5 3 = 1 then .ctrlReserved203F (v.extractLsb' 0 5)
  else if v.extractLsb' 6 2 = 1 then .ctrlReserved407F (v.extractLsb' 0 6)
  else .ctrlReserved80FF (v.extractLsb' 0 7)

/-- The access with `RW : OFF = c` and DATA `v` (R81): decoded by `(RW, OFF)` alone, a write to CTRL by its DATA too. -/
def decodeFields (c : BitVec 5) (v : Byte) : Instr :=
  match c with
  | 0x00#5 => .rdCtrl v
  | 0x01#5 => .rdStatus v
  | 0x02#5 => .rdSaddr v
  | 0x03#5 => .rdLen v
  | 0x04#5 => .rdBufl v
  | 0x05#5 => .rdBufh v
  | 0x06#5 => .rdRegidx v
  | 0x07#5 => .rdRxdata v
  | 0x08#5 => .rdClkdiv v
  | 0x09#5 => .rdCfg v
  | 0x0A#5 => .rdIfg v
  | 0x0B#5 => .rdEvbits v
  | 0x0C#5 => .rdEvset v
  | 0x0D#5 => .evTake v
  | 0x0E#5 => .offReserved false false v
  | 0x0F#5 => .offReserved false true v
  | 0x10#5 => decodeCommand v
  | 0x11#5 => .wrStatus v
  | 0x12#5 => .wrSaddr v
  | 0x13#5 => .wrLen v
  | 0x14#5 => .wrBufl v
  | 0x15#5 => .wrBufh v
  | 0x16#5 => .wrRegidx v
  | 0x17#5 => .wrRxdata v
  | 0x18#5 => .wrClkdiv v
  | 0x19#5 => .wrCfg v
  | 0x1A#5 => .wrIfg v
  | 0x1B#5 => .wrEvbits v
  | 0x1C#5 => .evPost v
  | 0x1D#5 => .wrEvtake v
  | 0x1E#5 => .offReserved true false v
  | _ => .offReserved true true v

/-- The instruction of an access word: every 13-bit word is one (R90). -/
def decodeWord (w : AccessWord) : Instr := decodeFields w.rwOff w.data

/-- Why bytes are no access word. -/
inductive DecodeError where
  /-- Fewer than two bytes. -/
  | tooShort
  /-- Bits 15:13 of the two bytes are not 0, so they hold no 13-bit word. -/
  | notAccessWord
deriving DecidableEq, Repr

/-- What decoding a list of bytes gives: an instruction and the bytes after it, or the reason there is none. -/
inductive Decoded where
  | instr (i : Instr) (rest : List Byte)
  | error (e : DecodeError)
deriving DecidableEq, Repr

/-- Bytes to an instruction. An access word stands in two bytes, bits 7:0 first and bits 12:8 in the second, whose
bits 7:5 are 0. DESIGN CHOICE: notes/assumptions/10.md. -/
def decode : List Byte → Decoded
  | lo :: hi :: rest =>
    if hi.extractLsb' 5 3 = 0 then .instr (decodeFields (hi.extractLsb' 0 5) lo) rest else .error .notAccessWord
  | [_] => .error .tooShort
  | [] => .error .tooShort

/-- The instruction the decoder reads from the table word `w` of `nbits` bits, every bit above them 0; none for a word with
a bit above bit 12, which is no access word. DESIGN CHOICE: notes/assumptions/10.md. -/
def decodeTableWord (nbits w : Nat) : Option Instr :=
  let v := w % 2 ^ nbits
  if v < 2 ^ 16 then
    match decode [BitVec.ofNat 8 v, BitVec.ofNat 8 (v / 256)] with
    | .instr i _ => some i
    | .error _ => none
  else none

/-! ## Encoding -/

/-- The access word of an instruction, from the encoding column of the table; none for the rows that have no encoding
(R89, R201 to R214). -/
def encodeWord : Instr → Option AccessWord
  | .i2cNop => some (writeWord 0x0 0x00)
  | .i2cInit => some (writeWord 0x0 0x01)
  | .i2cWrite => some (writeWord 0x0 0x02)
  | .i2cReadreg => some (writeWord 0x0 0x03)
  | .ctrlReserved0407 d => some (writeWord 0x0 (0b000001#6 ++ d))
  | .ctrlReserved080F d => some (writeWord 0x0 (0b00001#5 ++ d))
  | .ctrlReserved101F d => some (writeWord 0x0 (0b0001#4 ++ d))
  | .ctrlReserved203F d => some (writeWord 0x0 (0b001#3 ++ d))
  | .ctrlReserved407F d => some (writeWord 0x0 (0b01#2 ++ d))
  | .ctrlReserved80FF d => some (writeWord 0x0 (0b1#1 ++ d))
  | .wrStatus v => some (writeWord 0x1 v)
  | .wrSaddr v => some (writeWord 0x2 v)
  | .wrLen v => some (writeWord 0x3 v)
  | .wrBufl v => some (writeWord 0x4 v)
  | .wrBufh v => some (writeWord 0x5 v)
  | .wrRegidx v => some (writeWord 0x6 v)
  | .wrRxdata v => some (writeWord 0x7 v)
  | .wrClkdiv v => some (writeWord 0x8 v)
  | .wrCfg v => some (writeWord 0x9 v)
  | .wrIfg v => some (writeWord 0xA v)
  | .wrEvbits v => some (writeWord 0xB v)
  | .evPost v => some (writeWord 0xC v)
  | .wrEvtake v => some (writeWord 0xD v)
  | .rdCtrl x => some (readWord 0x0 x)
  | .rdStatus x => some (readWord 0x1 x)
  | .rdSaddr x => some (readWord 0x2 x)
  | .rdLen x => some (readWord 0x3 x)
  | .rdBufl x => some (readWord 0x4 x)
  | .rdBufh x => some (readWord 0x5 x)
  | .rdRegidx x => some (readWord 0x6 x)
  | .rdRxdata x => some (readWord 0x7 x)
  | .rdClkdiv x => some (readWord 0x8 x)
  | .rdCfg x => some (readWord 0x9 x)
  | .rdIfg x => some (readWord 0xA x)
  | .rdEvbits x => some (readWord 0xB x)
  | .rdEvset x => some (readWord 0xC x)
  | .evTake x => some (readWord 0xD x)
  | .offReserved write odd x => some (accessWord (BitVec.ofBool write ++ 0b111#3 ++ BitVec.ofBool odd) x)
  | .busAddrAck _ | .busDataAck _ | .busRxByte _ | .engSvcRx | .engSvcTx | .engSvcNack | .engSvcStop | .prodEvIn _
  | .hostWaitdone | .hostSleep _ | .harnessLi _ _ | .harnessWr _ _ | .harnessWrr _ _ | .harnessRd _ _
  | .harnessAddi _ _ | .harnessAndi _ _ | .harnessBeqz _ _ | .harnessBnez _ _ | .harnessBeqi _ _ _ | .harnessJmp _
  | .harnessLog _ | .harnessHalt => none

/-- The two bytes that hold an access word. -/
def wordBytes (w : AccessWord) : List Byte := [w.data, 0#3 ++ w.rwOff]

/-- The bytes of an instruction. -/
def encode (i : Instr) : Option (List Byte) := (encodeWord i).map wordBytes

/-! ## The opcode table's rows -/

/-- An encoded row of spec/opcode_table.json: a word is an instance of it when `word &&& mask = pattern`. -/
structure Row where
  mnemonic : String
  mask     : AccessWord
  pattern  : AccessWord
deriving DecidableEq, Repr

/-- The row of an ACCESS instruction, as the table prints its `mask` and `match`. -/
def accessRow : Instr → Option Row
  | .i2cNop => some ⟨"I2C.NOP", 0x1FFF#13, 0x1000#13⟩
  | .i2cInit => some ⟨"I2C.INIT", 0x1FFF#13, 0x1001#13⟩
  | .i2cWrite => some ⟨"I2C.WRITE", 0x1FFF#13, 0x1002#13⟩
  | .i2cReadreg => some ⟨"I2C.READREG", 0x1FFF#13, 0x1003#13⟩
  | .ctrlReserved0407 _ => some ⟨"CTRL.RESERVED_04_07", 0x1FFC#13, 0x1004#13⟩
  | .ctrlReserved080F _ => some ⟨"CTRL.RESERVED_08_0F", 0x1FF8#13, 0x1008#13⟩
  | .ctrlReserved101F _ => some ⟨"CTRL.RESERVED_10_1F", 0x1FF0#13, 0x1010#13⟩
  | .ctrlReserved203F _ => some ⟨"CTRL.RESERVED_20_3F", 0x1FE0#13, 0x1020#13⟩
  | .ctrlReserved407F _ => some ⟨"CTRL.RESERVED_40_7F", 0x1FC0#13, 0x1040#13⟩
  | .ctrlReserved80FF _ => some ⟨"CTRL.RESERVED_80_FF", 0x1F80#13, 0x1080#13⟩
  | .wrStatus _ => some ⟨"WR.STATUS", 0x1F00#13, 0x1100#13⟩
  | .wrSaddr _ => some ⟨"WR.SADDR", 0x1F00#13, 0x1200#13⟩
  | .wrLen _ => some ⟨"WR.LEN", 0x1F00#13, 0x1300#13⟩
  | .wrBufl _ => some ⟨"WR.BUFL", 0x1F00#13, 0x1400#13⟩
  | .wrBufh _ => some ⟨"WR.BUFH", 0x1F00#13, 0x1500#13⟩
  | .wrRegidx _ => some ⟨"WR.REGIDX", 0x1F00#13, 0x1600#13⟩
  | .wrRxdata _ => some ⟨"WR.RXDATA", 0x1F00#13, 0x1700#13⟩
  | .wrClkdiv _ => some ⟨"WR.CLKDIV", 0x1F00#13, 0x1800#13⟩
  | .wrCfg _ => some ⟨"WR.CFG", 0x1F00#13, 0x1900#13⟩
  | .wrIfg _ => some ⟨"WR.IFG", 0x1F00#13, 0x1A00#13⟩
  | .wrEvbits _ => some ⟨"WR.EVBITS", 0x1F00#13, 0x1B00#13⟩
  | .evPost _ => some ⟨"EV.POST", 0x1F00#13, 0x1C00#13⟩
  | .wrEvtake _ => some ⟨"WR.EVTAKE", 0x1F00#13, 0x1D00#13⟩
  | .rdCtrl _ => some ⟨"RD.CTRL", 0x1F00#13, 0x0000#13⟩
  | .rdStatus _ => some ⟨"RD.STATUS", 0x1F00#13, 0x0100#13⟩
  | .rdSaddr _ => some ⟨"RD.SADDR", 0x1F00#13, 0x0200#13⟩
  | .rdLen _ => some ⟨"RD.LEN", 0x1F00#13, 0x0300#13⟩
  | .rdBufl _ => some ⟨"RD.BUFL", 0x1F00#13, 0x0400#13⟩
  | .rdBufh _ => some ⟨"RD.BUFH", 0x1F00#13, 0x0500#13⟩
  | .rdRegidx _ => some ⟨"RD.REGIDX", 0x1F00#13, 0x0600#13⟩
  | .rdRxdata _ => some ⟨"RD.RXDATA", 0x1F00#13, 0x0700#13⟩
  | .rdClkdiv _ => some ⟨"RD.CLKDIV", 0x1F00#13, 0x0800#13⟩
  | .rdCfg _ => some ⟨"RD.CFG", 0x1F00#13, 0x0900#13⟩
  | .rdIfg _ => some ⟨"RD.IFG", 0x1F00#13, 0x0A00#13⟩
  | .rdEvbits _ => some ⟨"RD.EVBITS", 0x1F00#13, 0x0B00#13⟩
  | .rdEvset _ => some ⟨"RD.EVSET", 0x1F00#13, 0x0C00#13⟩
  | .evTake _ => some ⟨"EV.TAKE", 0x1F00#13, 0x0D00#13⟩
  | .offReserved _ _ _ => some ⟨"OFF.RESERVED", 0x0E00#13, 0x0E00#13⟩
  | .busAddrAck _ | .busDataAck _ | .busRxByte _ | .engSvcRx | .engSvcTx | .engSvcNack | .engSvcStop | .prodEvIn _
  | .hostWaitdone | .hostSleep _ | .harnessLi _ _ | .harnessWr _ _ | .harnessWrr _ _ | .harnessRd _ _
  | .harnessAddi _ _ | .harnessAndi _ _ | .harnessBeqz _ _ | .harnessBnez _ _ | .harnessBeqi _ _ _ | .harnessJmp _
  | .harnessLog _ | .harnessHalt => none

/-- Is this a host access, a row of format ACCESS? -/
def Instr.isAccess (i : Instr) : Bool := (accessRow i).isSome

/-! ## Harness statements -/

/-- The instruction that executing a statement is; `spurious` is the draw of `sleep` (R202). -/
def Stmt.toInstr (spurious : Bool) : Stmt → Instr
  | .waitdone => .hostWaitdone
  | .sleep => .hostSleep spurious
  | .li n imm => .harnessLi n imm
  | .wr off imm => .harnessWr off imm
  | .wrr off n => .harnessWrr off n
  | .rd n off => .harnessRd n off
  | .addi n imm => .harnessAddi n imm
  | .andi n imm => .harnessAndi n imm
  | .beqz n l => .harnessBeqz n l
  | .bnez n l => .harnessBnez n l
  | .beqi n imm l => .harnessBeqi n imm l
  | .jmp l => .harnessJmp l
  | .log n => .harnessLog n
  | .halt => .harnessHalt

end Sys2Proof
end

