-- ==== Sys2Proof/Config.lean ====
section
/-! DEFINITION. What the platform fixes (the OPEN parameters `BASE`, `MEMWIN`, `P_CLKDIV`) and the free value that
chooses who steps next. Constants here have no body: no proof can see what they are. -/

namespace Sys2Proof

/-- A range of host byte addresses, both ends included. -/
structure Region where
  first : HostAddr
  last  : HostAddr
deriving DecidableEq, Repr, Inhabited

/-- The OPEN parameters (R11): `base` is `BASE` (D2), `memwin` the set `MEMWIN` of host addresses the engine may read,
as a list of ranges (D11), `pClkdiv` is `P_CLKDIV` (D36). -/
structure Params where
  base    : Nat
  memwin  : List Region
  pClkdiv : Byte
deriving DecidableEq, Repr, Inhabited

/-- One turn of a run (R4): which agent steps, and the draws of that step (R10). A run is any list of turns.

* `access`: the host performs one access, `width` bits wide, with the given access word (R63, R80);
* `mapped`: the same, made at a host address (R68): the offset is the address less `BASE`;
* `host`: the harness executes the statement at `hpc` (R200), with the draw `spurious_wake` (R202);
* `bus`: the bus agent answers, with the draws `k` (ACK) and `v` (received byte) (R120);
* `engine`: the engine services a flag (R125);
* `producer`: the producers pulse the lines `mask` of `EV_IN` (R151);
* `store`: the host or a producer stores a byte to host memory (R72, R73);
* `powerOn`: power-on reset (R260). -/
inductive Turn where
  | access (width : Nat) (word : AccessWord)
  | mapped (addr : Nat) (width : Nat) (write : Bool) (data : Byte)
  | host (spurious : Bool)
  | bus (ack : Bool) (byte : Byte)
  | engine
  | producer (mask : BitVec 4)
  | store (addr : HostAddr) (byte : Byte)
  | powerOn
deriving DecidableEq, Repr, Inhabited

/-- The parameters of the machine after reset: OPEN (R11), so any value. -/
opaque Config.params : Params

/-- The `n`-th turn that no list in the state has fixed: the spec admits every interleaving and every draw (R4, R10),
so any value. DESIGN CHOICE, safe: notes/assumptions/1.md. -/
opaque Config.freeTurn : Nat → Turn

end Sys2Proof
end

