-- ==== Sys2Proof/Machine/State.lean ====
section
/-! DEFINITION. The state of the block, of the host harness and of host memory, the reasons a step can stop, and the
state after power-on reset (10_state.md, 44_host_harness.md R200, 60_exceptions.md R220). -/

namespace Sys2Proof.Machine

/-! ## Parts of the state -/

/-- `STATUS.CAUSE` (R25). The code 0b11 is never produced, so it has no constructor. -/
inductive Cause where
  | none
  | stop
  | nack
deriving DecidableEq, Repr

/-- `T.cmd` (R40). -/
inductive Cmd where
  | none
  | write
  | readreg
deriving DecidableEq, Repr

/-- `T.stage` (R40): `w` the write stage, `r` the single-byte read of a READREG. -/
inductive Stage where
  | w
  | r
deriving DecidableEq, Repr

/-- `T.dir` (R40): `write` = 0 (transmit), `read` = 1 (receive). -/
inductive Dir where
  | write
  | read
deriving DecidableEq, Repr

/-- `T.src` (R40): `mem` = host memory at `T.buf`, `reg` = the byte `T.reg`. -/
inductive Src where
  | mem
  | reg
deriving DecidableEq, Repr

/-- `PH`, the engine's bus phase (R42). -/
inductive Phase where
  | idle
  | addr
  | load
  | txbyte
  | rxbyte
  | hold
deriving DecidableEq, Repr

/-- A symbol of the bus trace (R121). `k` is true for ACK.
The master's NACK of the byte of `r` is PRESUMED by the spec itself (93_implementation_defined.md G2):
notes/assumptions/17.md. -/
inductive Sym where
  /-- `S`: START driven by the block. -/
  | s
  /-- `A(ab, k)`: address byte driven by the block, answer of the slave. -/
  | a (ab : Byte) (k : Bool)
  /-- `D(b, k)`: data byte driven by the block, answer of the slave. -/
  | d (b : Byte) (k : Bool)
  /-- `R(b)`: data byte driven by the slave. -/
  | r (b : Byte)
  /-- `P`: STOP driven by the block. -/
  | p
deriving DecidableEq, Repr

/-- The Transaction record `T` (R40). -/
structure Transaction where
  cmd    : Cmd
  stage  : Stage
  addr   : BitVec 7
  dir    : Dir
  src    : Src
  buf    : HostAddr
  reg    : Byte
  len    : Byte
  cursor : Byte
deriving DecidableEq, Repr

/-- `T` is empty when `T.cmd = NONE` and every other field is 0 (R41). -/
def Transaction.empty : Transaction :=
  ⟨.none, .w, 0, .write, .mem, 0, 0, 0, 0⟩

/-- `CFG` (R34): its seven implemented bits, 0, 1, 2, 4, 5, 6, 7 in this order; bit 3 reads as 0. -/
structure Cfg where
  mst    : Bool
  a7     : Bool
  astp   : Bool
  ieRx   : Bool
  ieTx   : Bool
  ieStp  : Bool
  ieNack : Bool
deriving DecidableEq, Repr

/-- `CFG` after reset, 0x00 (R34, R49). -/
def Cfg.reset : Cfg := ⟨false, false, false, false, false, false, false⟩

/-- `CFG` after INIT, 0xF7 (R34, R101). -/
def Cfg.afterInit : Cfg := ⟨true, true, true, true, true, true, true⟩

/-- `IFG` (R35): bits 0 to 3 in this order; bits 7:4 read as 0. -/
structure Ifg where
  rxif   : Bool
  txif   : Bool
  stpif  : Bool
  nackif : Bool
deriving DecidableEq, Repr

/-- No flag pending. -/
def Ifg.none : Ifg := ⟨false, false, false, false⟩

/-- The codes of the model faults (R220), in the order of R228. Each is safe: the model stops where the spec gives the
hardware no behaviour (R221), so no claim holds of what the hardware does afterwards. -/
inductive FaultCode where
  /-- F_WIDTH: a host access that is not 8 bits wide (R63). Raised by the access turn. Safe. -/
  | width
  /-- F_RESERVED_OFF: an access to offset 0xE or 0xF (R84). Raised by OFF.RESERVED. Safe. -/
  | reservedOff
  /-- F_RESERVED_CMD: a write of 0x04 to 0xFF to CTRL (R83). Raised by the CTRL.RESERVED rows. Safe. -/
  | reservedCmd
  /-- F_CMD_BUSY: INIT, WRITE or READREG while BUSY (R101 to R103). Safe. -/
  | cmdBusy
  /-- F_NOT_INIT: WRITE or READREG before INIT (R102, R103). Safe. -/
  | notInit
  /-- F_LEN_ZERO: WRITE with LEN = 0 (R102). Safe. -/
  | lenZero
  /-- F_BUF_RANGE: WRITE of a buffer that passes 0xFFFF (R102). Safe. -/
  | bufRange
  /-- F_MEM: ENG.SVC_TX of a byte outside MEMWIN (R127, R6). Safe. -/
  | mem
  /-- F_HPC: a harness step with `hpc` not the index of a statement (R215). Safe. -/
  | hpc
deriving DecidableEq, Repr

/-! ## The state -/

/-- The whole state. No field is a function.

The block: STATUS's stored fields (R22), the registers (R28 to R36), `T`, `PH`, the shift registers, `TRACE`, `FAULT`
(R40 to R45). The host side: harness registers, `hpc`, `LOG`, `halted`, the program (R200), host memory (R48).
`par`: the OPEN parameters (R11). `rdata`, `agenda`, `turns` are the MODEL's own (notes/assumptions/1.md, 5.md). -/
structure State where
  /-- `STATUS.DONE` (R23). -/
  done     : Bool
  /-- `STATUS.BUSY` (R24). -/
  busy     : Bool
  /-- `STATUS.CAUSE` (R25). -/
  cause    : Cause
  /-- `STATUS.NACKSEEN` (R26). -/
  nackseen : Bool
  /-- `SADDR[6:0]` (R28); bit 7 is not implemented. -/
  saddr    : BitVec 7
  /-- `LEN` (R29). -/
  len      : Byte
  /-- `BUFL` (R30). -/
  bufl     : Byte
  /-- `BUFH` (R30). -/
  bufh     : Byte
  /-- `REGIDX` (R31). -/
  regidx   : Byte
  /-- `RXDATA` (R32). -/
  rxdata   : Byte
  /-- `CLKDIV` (R33). -/
  clkdiv   : Byte
  /-- `CFG` (R34). -/
  cfg      : Cfg
  /-- `IFG` (R35). -/
  ifg      : Ifg
  /-- `EVBITS[3:0]` (R36). -/
  evbits   : BitVec 4
  /-- `T` (R40). -/
  txn      : Transaction
  /-- `PH` (R42). -/
  ph       : Phase
  /-- `TXSHIFT` (R43). -/
  txshift  : Byte
  /-- `RXSHIFT` (R43). -/
  rxshift  : Byte
  /-- `TRACE`, oldest first (R44). -/
  trace    : List Sym
  /-- `FAULT` (R45), a set: codes in rising order, no repeats. -/
  faults   : List FaultCode
  /-- The byte the last read access returned to the host (R80). -/
  rdata    : Byte
  /-- Host memory (R6, R48): addresses strictly rising, no entry equal to `Memory.unlisted`. -/
  mem      : List Host.Cell
  /-- `h0` to `h7` (R200). -/
  h        : Vector Byte 8
  /-- The statement index (R200). -/
  hpc      : Nat
  /-- `LOG`, oldest first (R200). -/
  log      : List Byte
  /-- `halted` (R200). -/
  halted   : Bool
  /-- The harness program (R200). -/
  prog     : List Stmt
  /-- `BASE`, `MEMWIN`, `P_CLKDIV` (R11). -/
  par      : Params
  /-- Who steps next, and with which draws (R4, R10): the next turn first. -/
  agenda   : List Turn
  /-- How many turns the free schedule has given. -/
  turns    : Nat
deriving DecidableEq, Repr

/-- Power-on reset (R49, R260), and a host that has loaded nothing.

The spec gives every value but: `rdata` 0x00 (log 5), `mem` with nothing listed (log 6), `prog` empty (log 11), `agenda`
empty and `turns` 0 (log 1), DESIGN CHOICE each; `par` is the free value `Config.params` (log 4). -/
def State.reset : State where
  done     := false
  busy     := false
  cause    := .none
  nackseen := false
  saddr    := 0x00
  len      := 0x00
  bufl     := 0x00
  bufh     := 0x00
  regidx   := 0x00
  rxdata   := 0x00
  clkdiv   := 0x00
  cfg      := .reset
  ifg      := .none
  evbits   := 0x0
  txn      := .empty
  ph       := .idle
  txshift  := 0x00
  rxshift  := 0x00
  trace    := []
  faults   := []
  rdata    := 0x00
  mem      := []
  h        := #v[0x00, 0x00, 0x00, 0x00, 0x00, 0x00, 0x00, 0x00]
  hpc      := 0
  log      := []
  halted   := false
  prog     := []
  par      := Config.params
  agenda   := []
  turns    := 0

/-! ## How a step can stop -/

/-- A fault stops the machine (R8). -/
inductive Fault where
  /-- `raise Fault(code)`: `after` is the state at the fault, the state before it with `code` added to FAULT (R8).
  Raised by the instructions that `FaultCode`'s constructors name. Safe: notes/assumptions/7.md. -/
  | raised (code : FaultCode) (after : State)
deriving DecidableEq, Repr

/-- Why a step gives nothing. -/
inductive Refusal where
  /-- An instruction whose meaning is not written, by its mnemonic. Safe. -/
  | notModelled (mnemonic : String)
  /-- A turn after a fault: no agent steps then (R8). Raised by `step` only. Safe: notes/assumptions/7.md. -/
  | afterFault
  /-- A host access that is no row of format ACCESS. Raised by `performAccess` for an instruction that
  `decodeWord` never gives, so by no instruction. Safe. -/
  | notAnAccess
deriving DecidableEq, Repr

/-- What a step of the model answers. -/
abbrev Result := Host.Outcome State Fault Refusal

/-- What a turn comes to in a state: an instruction to execute, a state reached with no instruction (an idle turn, a
store to host memory, power-on reset), a fault, or nothing at all because a fault is recorded. -/
inductive Action where
  | run (i : Instr)
  | settle (s : State)
  | raise (c : FaultCode)
  | stopped
deriving DecidableEq, Repr

end Sys2Proof.Machine
end

