-- ==== Sys2Proof/Machine/Flags.lean ====
section
/-! DEFINITION. The status register's composition, the flag registers as bytes, the wake levels, the engine's choice of
flag and the priority of events (10_state.md R22 to R36, 41_i2c_bus_engine.md R125, 42_event_channel.md R150). -/

namespace Sys2Proof.Machine

/-! ## Registers as the host reads them -/

/-- The two bits of CAUSE (R25). -/
def Cause.code : Cause → BitVec 2
  | .none => 0b00
  | .stop => 0b01
  | .nack => 0b10

/-- The bits of CFG (R34): bit 3 reads as 0. -/
def Cfg.toByte (c : Cfg) : Byte :=
  BitVec.ofBool c.ieNack ++ BitVec.ofBool c.ieStp ++ BitVec.ofBool c.ieTx ++ BitVec.ofBool c.ieRx ++ 0b0#1 ++
    BitVec.ofBool c.astp ++ BitVec.ofBool c.a7 ++ BitVec.ofBool c.mst

/-- `IFG[3:0]` (R35). -/
def Ifg.bits (f : Ifg) : BitVec 4 :=
  BitVec.ofBool f.nackif ++ BitVec.ofBool f.stpif ++ BitVec.ofBool f.txif ++ BitVec.ofBool f.rxif

/-- IFG as a byte: bits 7:4 read as 0 (R35, R185). -/
def Ifg.toByte (f : Ifg) : Byte := 0b0000#4 ++ f.bits

/-- EVBITS as a byte: bits 7:4 read as 0 (R36, R154). -/
def eventByte (v : BitVec 4) : Byte := v.setWidth 8

/-- `STATUS.EVPEND`, computed at every read (R27). -/
def State.evpend (s : State) : Bool := s.evbits != 0

/-- `STATUS` as the host reads it: `0b00 : EVPEND : NACKSEEN : CAUSE : BUSY : DONE` (R22, R176). -/
def State.statusByte (s : State) : Byte :=
  0b00#2 ++ BitVec.ofBool s.evpend ++ BitVec.ofBool s.nackseen ++ s.cause.code ++ BitVec.ofBool s.busy ++
    BitVec.ofBool s.done

/-! ## Wake levels (R46, R227) -/

/-- `WAKE_DONE = STATUS.DONE`, the level WAITDONE waits on. -/
def State.wakeDone (s : State) : Bool := s.done

/-- `WAKE_EV = STATUS.EVPEND`, the level SLEEP waits on. -/
def State.wakeEv (s : State) : Bool := s.evpend

/-! ## The engine's flag (R125) -/

/-- The four bus event flags of IFG (R35). -/
inductive Flag where
  | rx
  | tx
  | stop
  | nack
deriving DecidableEq, Repr

/-- Flag `IFG[i]` is pending and its enable `CFG[4+i]` is 1 (R34, R125). -/
def State.serviceable (s : State) : Flag → Bool
  | .rx => s.ifg.rxif && s.cfg.ieRx
  | .tx => s.ifg.txif && s.cfg.ieTx
  | .stop => s.ifg.stpif && s.cfg.ieStp
  | .nack => s.ifg.nackif && s.cfg.ieNack

/-- The one flag the engine services, first in the order RXIF, TXIF, NACKIF, STPIF; none if it has no step (R125). -/
def State.selectedFlag (s : State) : Option Flag :=
  if s.serviceable .rx then some .rx
  else if s.serviceable .tx then some .tx
  else if s.serviceable .nack then some .nack
  else if s.serviceable .stop then some .stop
  else none

/-! ## Events (R88, R150) -/

/-- `HP(v)`, the largest `k` with `v[k] = 1`; none for 0 (R150). -/
def highestPending (v : BitVec 4) : Option (Fin 4) :=
  if v.getLsbD 3 then some 3
  else if v.getLsbD 2 then some 2
  else if v.getLsbD 1 then some 1
  else if v.getLsbD 0 then some 0
  else none

/-- The mask of event kind `k`. -/
def eventMask (k : Fin 4) : BitVec 4 := 1#4 <<< k.val

/-- The take code `0x80 | k` of event kind `k` (R88). -/
def takeCode (k : Fin 4) : Byte := 0x80#8 ||| BitVec.ofNat 8 k.val

/-- What a take returns when EVBITS is `v`: the take code of `HP(v)`, or 0x00, "no event" (R153). -/
def takenByte (v : BitVec 4) : Byte :=
  match highestPending v with
  | some k => takeCode k
  | none => 0x00

/-- EVBITS after a take: bit `HP(v)` cleared (R153). -/
def takenRest (v : BitVec 4) : BitVec 4 :=
  match highestPending v with
  | some k => v &&& ~~~ eventMask k
  | none => v

end Sys2Proof.Machine
end

