-- ==== Sys2Proof/Machine/Operands.lean ====
section
/-! DEFINITION. Operand assembly: the buffer reference and its range, the address byte, the address of a buffer byte,
and the offset of a host address (30_encoding.md R86, R87, 20_memory.md R60 to R69). -/

namespace Sys2Proof

/-- Is the address in the range? -/
def Region.contains (r : Region) (a : HostAddr) : Bool := r.first.toNat ≤ a.toNat && a.toNat ≤ r.last.toNat

/-- Is the address in `MEMWIN` (R69)? -/
def Params.inWindow (p : Params) (a : HostAddr) : Bool := p.memwin.any (·.contains a)

/-- The offset of a host address: the block occupies `BASE + 0x0` to `BASE + 0xF` (R68); none elsewhere. -/
def Params.offsetOf (p : Params) (addr : Nat) : Option Offset :=
  if p.base ≤ addr ∧ addr < p.base + 16 then some (BitVec.ofNat 4 (addr - p.base)) else none

/-- Does an access of `width` bits that starts below the block reach into it? (R63, R68; notes/assumptions/13.md.) -/
def Params.reachedFrom (p : Params) (addr width : Nat) : Bool :=
  decide (addr < p.base) && decide (p.base < addr + (width + 7) / 8)

end Sys2Proof

namespace Sys2Proof.Machine

/-- `BUF = BUFH : BUFL` (R30, R86). -/
def State.bufRef (s : State) : HostAddr := s.bufh ++ s.bufl

/-- The end of the WRITE buffer, `zext_17(BUF) + zext_17(LEN)`, as an exact number (R86). -/
def State.bufEnd (s : State) : Nat := s.bufRef.toNat + s.len.toNat

/-- The direction bit of the address byte: 1 = read (R40, R62). -/
def Dir.bit : Dir → BitVec 1
  | .write => 0
  | .read => 1

/-- The address byte `T.addr : T.dir` (R87).
The layout is PRESUMED by the spec itself (93_implementation_defined.md G1): notes/assumptions/17.md. -/
def Transaction.addressByte (t : Transaction) : Byte := t.addr ++ t.dir.bit

/-- `T.buf + T.cursor`, 16 bits (R127). It wraps only in states that no run reaches (R69): notes/assumptions/15.md. -/
def Transaction.byteAddr (t : Transaction) : HostAddr := t.buf + t.cursor.setWidth 16

/-- The transaction a WRITE command creates (R102). -/
def State.writeTransaction (s : State) : Transaction where
  cmd    := .write
  stage  := .w
  addr   := s.saddr
  dir    := .write
  src    := .mem
  buf    := s.bufRef
  reg    := 0x00
  len    := s.len
  cursor := 0

/-- The transaction a READREG command creates, in its stage W (R103). -/
def State.readregTransaction (s : State) : Transaction where
  cmd    := .readreg
  stage  := .w
  addr   := s.saddr
  dir    := .write
  src    := .reg
  buf    := 0x0000
  reg    := s.regidx
  len    := 1
  cursor := 0

/-- Stage R of a READREG, made from its stage W (R130). -/
def Transaction.readStage (t : Transaction) : Transaction :=
  { t with stage := .r, dir := .read, len := 1, cursor := 0 }

end Sys2Proof.Machine
end

