-- ==== Sys2Proof/Machine/Ops.lean ====
section
/-! DEFINITION. The operations the meanings share: host memory, harness registers, the bus trace, raising a fault,
starting and completing a transaction (the block's nearest thing to taking and leaving an exception, 60_exceptions.md
R230), power-on reset, and the start of a harness program. -/

namespace Sys2Proof.Machine

/-! ## Host memory (R6, R48) -/

/-- What an unlisted address reads as. The spec gives host memory no contents: DESIGN CHOICE, unsafe,
notes/assumptions/6.md. -/
def Memory.unlisted : Byte := 0x00

/-- The byte at address `a`. -/
def Memory.read : List Host.Cell → Nat → Byte
  | [], _ => Memory.unlisted
  | (k, v) :: m, a => if k = a then v else Memory.read m a

/-- Put the entry `(a, b)` in, or take the entry for `a` out when `b` is what an unlisted address reads as. -/
def Memory.write : List Host.Cell → Nat → Byte → List Host.Cell
  | [], a, b => if b = Memory.unlisted then [] else [(a, b)]
  | (k, v) :: m, a, b =>
    if k < a then (k, v) :: Memory.write m a b
    else if k = a then (if b = Memory.unlisted then m else (a, b) :: m)
    else (if b = Memory.unlisted then (k, v) :: m else (a, b) :: (k, v) :: m)

/-- The entries have rising addresses, all at least `lo` and below 0x10000, and none equals `Memory.unlisted`. -/
def Memory.wfFrom (lo : Nat) : List Host.Cell → Bool
  | [] => true
  | (k, v) :: m => decide (lo ≤ k) && decide (k < 0x10000) && v != Memory.unlisted && Memory.wfFrom (k + 1) m

/-- The canonical form: addresses strictly rising, each below 0x10000, no entry equal to `Memory.unlisted`. -/
def Memory.wf (m : List Host.Cell) : Bool := Memory.wfFrom 0 m

/-- The byte of host memory at a host address. -/
def State.byteAt (s : State) (a : HostAddr) : Byte := Memory.read s.mem a.toNat

/-- `MemRead(a, 1)` (R6): none outside `MEMWIN`. -/
def State.memRead (s : State) (a : HostAddr) : Option Byte :=
  if s.par.inWindow a then some (s.byteAt a) else none

/-- A store to host memory by the host or a producer (R72, R73). The block itself never stores (R6). -/
def State.storeByte (s : State) (a : HostAddr) (b : Byte) : State :=
  { s with mem := Memory.write s.mem a.toNat b }

/-! ## Harness registers and `hpc` (R200) -/

/-- `hN`. -/
def State.readH (s : State) (n : HReg) : Byte := s.h[n]

/-- `hN <- v`. -/
def State.setH (s : State) (n : HReg) (v : Byte) : State := { s with h := s.h.set n v }

/-- `hpc <- l`. -/
def State.jump (s : State) (l : Nat) : State := { s with hpc := l }

/-- `hpc <- hpc + 1`. -/
def State.advance (s : State) : State := s.jump (s.hpc + 1)

/-! ## Host accesses -/

/-- A read access returns `b` to the host (R80). -/
def State.returnByte (s : State) (b : Byte) : State := { s with rdata := b }

/-! ## Faults (R8) -/

/-- The place of a code in the order of R228. -/
def FaultCode.rank : FaultCode → Nat
  | .width => 0
  | .reservedOff => 1
  | .reservedCmd => 2
  | .cmdBusy => 3
  | .notInit => 4
  | .lenZero => 5
  | .bufRange => 6
  | .mem => 7
  | .hpc => 8

/-- Add a code to a set of codes kept in rising order. -/
def insertFault (c : FaultCode) : List FaultCode → List FaultCode
  | [] => [c]
  | d :: ds =>
    if c.rank < d.rank then c :: d :: ds
    else if c.rank = d.rank then d :: ds
    else d :: insertFault c ds

/-- The state at a fault: `c` is in FAULT, and nothing else has changed (R8). -/
def State.recordFault (s : State) (c : FaultCode) : State := { s with faults := insertFault c s.faults }

/-- `raise Fault(c)` (R8). -/
def raise (c : FaultCode) (s : State) : Result := .fault (.raised c (s.recordFault c))

/-! ## Transactions -/

/-- `emit(sym)` for a list of symbols (R7). -/
def State.emit (s : State) (syms : List Sym) : State := { s with trace := s.trace ++ syms }

/-- Issue a command: latch `t`, clear DONE, CAUSE and NACKSEEN, set BUSY, emit START, wait for the address ACK
(R102, R103). -/
def State.issue (s : State) (t : Transaction) : State :=
  { s with
    txn := t, done := false, busy := true, cause := .none, nackseen := false,
    trace := s.trace ++ [.s], ph := .addr }

/-- Start stage R of a READREG: the second START (R130). -/
def State.startReadStage (s : State) : State :=
  { s with txn := s.txn.readStage, trace := s.trace ++ [.s], ph := .addr }

/-- The final completion: CAUSE, DONE, BUSY, `T` emptied, bus idle (R130). -/
def State.finish (s : State) (c : Cause) : State :=
  { s with cause := c, done := true, busy := false, txn := .empty, ph := .idle }

/-- `complete(c)` (R130): a READREG in stage W goes on to stage R whatever `c` is; anything else is finished. -/
def State.complete (s : State) (c : Cause) : State :=
  if s.txn.cmd = .readreg ∧ s.txn.stage = .w then s.startReadStage else s.finish c

/-! ## Reset and the start of a program -/

/-- Power-on reset (R260): every piece of the block's state takes the value of R49, whatever it was. The host side
(harness, host memory, the returned byte), the parameters and the schedule are not the block's and stay:
notes/assumptions/8.md. -/
def State.powerOn (s : State) : State :=
  { s with
    done := false, busy := false, cause := .none, nackseen := false,
    saddr := 0, len := 0, bufl := 0, bufh := 0, regidx := 0, rxdata := 0, clkdiv := 0,
    cfg := .reset, ifg := .none, evbits := 0, txn := .empty, ph := .idle, txshift := 0, rxshift := 0,
    trace := [], faults := [] }

/-- The start of a harness program (R200): the program and the `h` registers its start state gives are placed from
outside, `hpc = 0`, LOG empty, not halted. -/
def State.startProgram (s : State) (p : List Stmt) (h : Vector Byte 8) : State :=
  { s with prog := p, h := h, hpc := 0, log := [], halted := false }

end Sys2Proof.Machine
end

