-- ==== Sys2Proof/Machine/Agents.lean ====
section
/-! DEFINITION. Who steps next, and what that turn executes in a state (00_scope.md R3, R4, 30_encoding.md R89,
44_host_harness.md R200, R215). -/

namespace Sys2Proof.Machine

/-- The next turn, and the state with that turn used up: the head of `agenda`, and once that is empty the free schedule
applied to the counter `turns` (R4; notes/assumptions/1.md). -/
def nextTurn (s : State) : Turn × State :=
  match s.agenda with
  | t :: ts => (t, { s with agenda := ts })
  | [] => (Config.freeTurn s.turns, { s with turns := s.turns + 1 })

/-- A host access of a given width: only 8 bits is an access, any other width is refused first (R63, R228). -/
def accessAction (width : Nat) (w : AccessWord) : Action :=
  if width = 8 then .run (decodeWord w) else .raise .width

/-- An access at a host address: the block answers for `BASE` to `BASE + 0xF` only (R68). A wide access that reaches into
the block from below is one of another width than 8 (R63; notes/assumptions/13.md). -/
def mappedAction (addr width : Nat) (write : Bool) (data : Byte) (s : State) : Action :=
  match s.par.offsetOf addr with
  | some off => accessAction width (accessWord (BitVec.ofBool write ++ off) data)
  | none => if s.par.reachedFrom addr width then .raise .width else .settle s

/-- The harness executes the statement at `hpc`; halted it has no step; no statement there is F_HPC (R200, R214, R215). -/
def hostAction (spurious : Bool) (s : State) : Action :=
  if s.halted then .settle s
  else match s.prog[s.hpc]? with
    | some st => .run (st.toInstr spurious)
    | none => .raise .hpc

/-- The bus agent's one step, by PH; none in IDLE, LOAD and HOLD (R120). -/
def busAction (k : Bool) (v : Byte) (s : State) : Action :=
  match s.ph with
  | .addr => .run (.busAddrAck k)
  | .txbyte => .run (.busDataAck k)
  | .rxbyte => .run (.busRxByte v)
  | .idle | .load | .hold => .settle s

/-- The engine's step: the service of the selected flag (R125). -/
def engineAction (s : State) : Action :=
  match s.selectedFlag with
  | some .rx => .run .engSvcRx
  | some .tx => .run .engSvcTx
  | some .nack => .run .engSvcNack
  | some .stop => .run .engSvcStop
  | none => .settle s

/-- The producers pulse a non-empty set of lines (R151). -/
def producerAction (m : BitVec 4) (s : State) : Action :=
  if m = 0 then .settle s else .run (.prodEvIn m)

/-- What a turn is in a state with no fault recorded. -/
def agentAction (t : Turn) (s : State) : Action :=
  match t with
  | .access width w => accessAction width w
  | .mapped addr width write data => mappedAction addr width write data s
  | .host spurious => hostAction spurious s
  | .bus k v => busAction k v s
  | .engine => engineAction s
  | .producer m => producerAction m s
  | .store a b => .settle (s.storeByte a b)
  | .powerOn => .settle s.powerOn

/-- After a fault no agent steps (R8); power-on reset is no agent's step and is taken whatever the state was (R260). -/
def turnAction (t : Turn) (s : State) : Action :=
  if s.faults = [] then agentAction t s
  else match t with
    | .powerOn => .settle s.powerOn
    | .access _ _ | .mapped _ _ _ _ | .host _ | .bus _ _ | .engine | .producer _ | .store _ _ => .stopped

/-- A take and a producer's post in the same hardware clock: the block takes first, then posts (R157). -/
def takeThenPost (m : BitVec 4) : List Turn := [.access 8 (readWord 0xD 0x00), .producer m]

end Sys2Proof.Machine
end

