-- ==== Sys2Proof/Machine/Commands.lean ====
section
/-! DEFINITION. The writes to CTRL: the four commands and the six reserved rows (40_i2c_commands.md R100 to R103,
30_encoding.md R83). Fault checks stand in the order of R228. -/

namespace Sys2Proof.Machine

/-- I2C.NOP: no effect in any state (R100). -/
def execI2cNop (s : State) : Result := .next s

/-- I2C.INIT: CFG and CLKDIV, nothing else (R101). -/
def execI2cInit (s : State) : Result :=
  if s.busy then raise .cmdBusy s
  else .next { s with cfg := .afterInit, clkdiv := s.par.pClkdiv }

/-- I2C.WRITE (R102). -/
def execI2cWrite (s : State) : Result :=
  if s.busy then raise .cmdBusy s
  else if !s.cfg.mst then raise .notInit s
  else if s.len = 0 then raise .lenZero s
  else if 0x10000 < s.bufEnd then raise .bufRange s
  else .next (s.issue s.writeTransaction)

/-- I2C.READREG, which starts in stage W (R103). -/
def execI2cReadreg (s : State) : Result :=
  if s.busy then raise .cmdBusy s
  else if !s.cfg.mst then raise .notInit s
  else .next (s.issue s.readregTransaction)

/-- CTRL.RESERVED_04_07 (R83). -/
def execCtrlReserved0407 (_ : BitVec 2) (s : State) : Result := raise .reservedCmd s

/-- CTRL.RESERVED_08_0F (R83). -/
def execCtrlReserved080F (_ : BitVec 3) (s : State) : Result := raise .reservedCmd s

/-- CTRL.RESERVED_10_1F (R83). -/
def execCtrlReserved101F (_ : BitVec 4) (s : State) : Result := raise .reservedCmd s

/-- CTRL.RESERVED_20_3F (R83). -/
def execCtrlReserved203F (_ : BitVec 5) (s : State) : Result := raise .reservedCmd s

/-- CTRL.RESERVED_40_7F (R83). -/
def execCtrlReserved407F (_ : BitVec 6) (s : State) : Result := raise .reservedCmd s

/-- CTRL.RESERVED_80_FF (R83). -/
def execCtrlReserved80FF (_ : BitVec 7) (s : State) : Result := raise .reservedCmd s

end Sys2Proof.Machine
end

