-- ==== Sys2Proof/Machine/Events.lean ====
section
/-! DEFINITION. EventChannel: posts by the producers and the host, the take, and the read of EVBITS
(42_event_channel.md R151 to R154). -/

namespace Sys2Proof.Machine

/-- A post: OR a mask into EVBITS (R151, R152). -/
def State.post (s : State) (m : BitVec 4) : State := { s with evbits := s.evbits ||| m }

/-- EV.POST: bits 7:4 of the byte are ignored (R152, R37). -/
def execEvPost (v : Byte) (s : State) : Result := .next (s.post (v.setWidth 4))

/-- EV.TAKE: return and clear the highest pending event, or return 0x00, in one step (R153). -/
def execEvTake (_ : Byte) (s : State) : Result :=
  .next { s with evbits := takenRest s.evbits, rdata := takenByte s.evbits }

/-- RD.EVBITS: no side effect (R154). -/
def execRdEvbits (_ : Byte) (s : State) : Result := .next (s.returnByte (eventByte s.evbits))

/-- PROD.EV_IN: the producers post the mask of the lines they pulse (R151). -/
def execProdEvIn (m : BitVec 4) (s : State) : Result := .next (s.post m)

end Sys2Proof.Machine
end

