-- ==== Sys2Proof/Machine/Registers.lean ====
section
/-! DEFINITION. Plain register accesses: writes of programming registers, ignored writes, reads without a side effect,
and the reserved offsets (43_register_access.md R170 to R193, 30_encoding.md R84). -/

namespace Sys2Proof.Machine

/-! ## Writes of programming registers: legal in every state, while BUSY too -/

/-- WR.SADDR: bit 7 of the byte is dropped (R170, R28). -/
def execWrSaddr (v : Byte) (s : State) : Result := .next { s with saddr := v.setWidth 7 }

/-- WR.LEN (R171). -/
def execWrLen (v : Byte) (s : State) : Result := .next { s with len := v }

/-- WR.BUFL (R172). -/
def execWrBufl (v : Byte) (s : State) : Result := .next { s with bufl := v }

/-- WR.BUFH (R173). -/
def execWrBufh (v : Byte) (s : State) : Result := .next { s with bufh := v }

/-- WR.REGIDX (R174). -/
def execWrRegidx (v : Byte) (s : State) : Result := .next { s with regidx := v }

/-! ## Writes to read-only offsets: no effect -/

/-- WR.STATUS: ignored (R187). -/
def execWrStatus (_ : Byte) (s : State) : Result := .next s

/-- WR.RXDATA: ignored (R188). -/
def execWrRxdata (_ : Byte) (s : State) : Result := .next s

/-- WR.CLKDIV: ignored (R189). -/
def execWrClkdiv (_ : Byte) (s : State) : Result := .next s

/-- WR.CFG: ignored (R190). -/
def execWrCfg (_ : Byte) (s : State) : Result := .next s

/-- WR.IFG: ignored (R191). -/
def execWrIfg (_ : Byte) (s : State) : Result := .next s

/-- WR.EVBITS: ignored (R192). -/
def execWrEvbits (_ : Byte) (s : State) : Result := .next s

/-- WR.EVTAKE: ignored (R193). -/
def execWrEvtake (_ : Byte) (s : State) : Result := .next s

/-! ## Reads: the byte goes to the host, nothing else changes (R66) -/

/-- RD.CTRL: CTRL holds no state (R175). -/
def execRdCtrl (_ : Byte) (s : State) : Result := .next (s.returnByte 0x00)

/-- RD.STATUS: composed at the read (R176). -/
def execRdStatus (_ : Byte) (s : State) : Result := .next (s.returnByte s.statusByte)

/-- RD.SADDR: bit 7 reads 0 (R177). -/
def execRdSaddr (_ : Byte) (s : State) : Result := .next (s.returnByte (0#1 ++ s.saddr))

/-- RD.LEN: the programmed value, not the progress (R178). -/
def execRdLen (_ : Byte) (s : State) : Result := .next (s.returnByte s.len)

/-- RD.BUFL (R179). -/
def execRdBufl (_ : Byte) (s : State) : Result := .next (s.returnByte s.bufl)

/-- RD.BUFH (R180). -/
def execRdBufh (_ : Byte) (s : State) : Result := .next (s.returnByte s.bufh)

/-- RD.REGIDX (R181). -/
def execRdRegidx (_ : Byte) (s : State) : Result := .next (s.returnByte s.regidx)

/-- RD.RXDATA (R182). -/
def execRdRxdata (_ : Byte) (s : State) : Result := .next (s.returnByte s.rxdata)

/-- RD.CLKDIV (R183). -/
def execRdClkdiv (_ : Byte) (s : State) : Result := .next (s.returnByte s.clkdiv)

/-- RD.CFG (R184). -/
def execRdCfg (_ : Byte) (s : State) : Result := .next (s.returnByte s.cfg.toByte)

/-- RD.IFG: the read clears no flag (R185). -/
def execRdIfg (_ : Byte) (s : State) : Result := .next (s.returnByte s.ifg.toByte)

/-- RD.EVSET: EVSET holds no state (R186). -/
def execRdEvset (_ : Byte) (s : State) : Result := .next (s.returnByte 0x00)

/-! ## Reserved offsets -/

/-- OFF.RESERVED: any access to offset 0xE or 0xF is refused, a read returns no value (R84). -/
def execOffReserved (_ _ : Bool) (_ : Byte) (s : State) : Result := raise .reservedOff s

end Sys2Proof.Machine
end

