-- ==== Sys2Proof/Machine/Access.lean ====
section
/-! DEFINITION. One host access as a step of its own or inside a harness statement: the meaning its row of R81 has. -/

namespace Sys2Proof.Machine

/-- What a host access does. `decodeWord` gives only rows of format ACCESS, so the last arm is never reached from an
access word (`Laws/Decode.lean`, `decodeWord_isAccess`). -/
def performAccess (i : Instr) (s : State) : Result :=
  match i with
  | .i2cNop => execI2cNop s
  | .i2cInit => execI2cInit s
  | .i2cWrite => execI2cWrite s
  | .i2cReadreg => execI2cReadreg s
  | .ctrlReserved0407 v => execCtrlReserved0407 v s
  | .ctrlReserved080F v => execCtrlReserved080F v s
  | .ctrlReserved101F v => execCtrlReserved101F v s
  | .ctrlReserved203F v => execCtrlReserved203F v s
  | .ctrlReserved407F v => execCtrlReserved407F v s
  | .ctrlReserved80FF v => execCtrlReserved80FF v s
  | .wrStatus v => execWrStatus v s
  | .wrSaddr v => execWrSaddr v s
  | .wrLen v => execWrLen v s
  | .wrBufl v => execWrBufl v s
  | .wrBufh v => execWrBufh v s
  | .wrRegidx v => execWrRegidx v s
  | .wrRxdata v => execWrRxdata v s
  | .wrClkdiv v => execWrClkdiv v s
  | .wrCfg v => execWrCfg v s
  | .wrIfg v => execWrIfg v s
  | .wrEvbits v => execWrEvbits v s
  | .evPost v => execEvPost v s
  | .wrEvtake v => execWrEvtake v s
  | .rdCtrl v => execRdCtrl v s
  | .rdStatus v => execRdStatus v s
  | .rdSaddr v => execRdSaddr v s
  | .rdLen v => execRdLen v s
  | .rdBufl v => execRdBufl v s
  | .rdBufh v => execRdBufh v s
  | .rdRegidx v => execRdRegidx v s
  | .rdRxdata v => execRdRxdata v s
  | .rdClkdiv v => execRdClkdiv v s
  | .rdCfg v => execRdCfg v s
  | .rdIfg v => execRdIfg v s
  | .rdEvbits v => execRdEvbits v s
  | .rdEvset v => execRdEvset v s
  | .evTake v => execEvTake v s
  | .offReserved a b c => execOffReserved a b c s
  | .busAddrAck _ | .busDataAck _ | .busRxByte _ | .engSvcRx | .engSvcTx | .engSvcNack | .engSvcStop | .prodEvIn _
  | .hostWaitdone | .hostSleep _ | .harnessLi _ _ | .harnessWr _ _ | .harnessWrr _ _ | .harnessRd _ _
  | .harnessAddi _ _ | .harnessAndi _ _ | .harnessBeqz _ _ | .harnessBnez _ _ | .harnessBeqi _ _ _ | .harnessJmp _
  | .harnessLog _ | .harnessHalt => .refused .notAnAccess

/-- The host writes `v` to offset `off`: the access word `1 : off : v` (R91). -/
def hostWrite (off : Offset) (v : Byte) (s : State) : Result := performAccess (decodeWord (writeWord off v)) s

/-- The host reads offset `off`: the access word `0 : off : 0x00` (R91). -/
def hostRead (off : Offset) (s : State) : Result := performAccess (decodeWord (readWord off 0x00)) s

end Sys2Proof.Machine
end

