-- ==== Sys2Proof/Machine/Bus.lean ====
section
/-! DEFINITION. The bus agent: the slave's answer to the address byte and to a data byte, and the byte of a read
(41_i2c_bus_engine.md R120 to R124). The draw is the argument. Where the row is not enabled the bus agent has no step
and the state stays (notes/assumptions/3.md). -/

namespace Sys2Proof.Machine

/-- BUS.ADDR_ACK, enabled when PH = ADDR (R122). -/
def execBusAddrAck (k : Bool) (s : State) : Result :=
  if s.ph = .addr then
    if k then
      match s.txn.dir with
      | .write =>
        .next { s.emit [.a s.txn.addressByte true] with ifg := { s.ifg with txif := true }, ph := .load }
      | .read => .next { s.emit [.a s.txn.addressByte true] with ph := .rxbyte }
    else
      .next { s.emit [.a s.txn.addressByte false, .p] with ifg := { s.ifg with nackif := true }, ph := .hold }
  else .next s

/-- BUS.DATA_ACK, enabled when PH = TXBYTE (R123). The STOP at `cursor = len` is the auto-STOP. -/
def execBusDataAck (k : Bool) (s : State) : Result :=
  if s.ph = .txbyte then
    if k then
      if s.txn.cursor.toNat < s.txn.len.toNat then
        .next { s.emit [.d s.txshift true] with ifg := { s.ifg with txif := true }, ph := .load }
      else
        .next { s.emit [.d s.txshift true, .p] with ifg := { s.ifg with stpif := true }, ph := .hold }
    else
      .next { s.emit [.d s.txshift false, .p] with ifg := { s.ifg with nackif := true }, ph := .hold }
  else .next s

/-- BUS.RX_BYTE, enabled when PH = RXBYTE: the one byte, the block's NACK and the auto-STOP (R124). -/
def execBusRxByte (v : Byte) (s : State) : Result :=
  if s.ph = .rxbyte then
    .next { s.emit [.r v, .p] with
      rxshift := v, ifg := { s.ifg with rxif := true, stpif := true }, ph := .hold }
  else .next s

end Sys2Proof.Machine
end

