-- ==== Sys2Proof/Machine/Engine.lean ====
section
/-! DEFINITION. The engine: the service of the flag that R125 selects (41_i2c_bus_engine.md R126 to R129). Where another
flag or none is selected the row is not enabled, and the state stays (notes/assumptions/3.md). -/

namespace Sys2Proof.Machine

/-- ENG.SVC_RX (R126). -/
def execEngSvcRx (s : State) : Result :=
  if s.selectedFlag = some .rx then
    .next { s with rxdata := s.rxshift, ifg := { s.ifg with rxif := false } }
  else .next s

/-- The byte ENG.SVC_TX loads: `buffer[cursor]` from host memory, or `T.reg` (R127); none outside MEMWIN. -/
def State.nextTxByte (s : State) : Option Byte :=
  match s.txn.src with
  | .mem => s.memRead s.txn.byteAddr
  | .reg => some s.txn.reg

/-- ENG.SVC_TX (R127). -/
def execEngSvcTx (s : State) : Result :=
  if s.selectedFlag = some .tx then
    match s.nextTxByte with
    | none => raise .mem s
    | some b =>
      .next { s with
        txshift := b, txn := { s.txn with cursor := s.txn.cursor + 1 },
        ifg := { s.ifg with txif := false }, ph := .txbyte }
  else .next s

/-- ENG.SVC_NACK (R128). -/
def execEngSvcNack (s : State) : Result :=
  if s.selectedFlag = some .nack then
    .next (State.complete { s with ifg := { s.ifg with nackif := false, stpif := false }, nackseen := true } .nack)
  else .next s

/-- ENG.SVC_STOP (R129). -/
def execEngSvcStop (s : State) : Result :=
  if s.selectedFlag = some .stop then
    .next (State.complete { s with ifg := { s.ifg with stpif := false } } .stop)
  else .next s

end Sys2Proof.Machine
end

