-- ==== Sys2Proof/Machine/Harness.lean ====
section
/-! DEFINITION. The host's waits and the harness statements (44_host_harness.md R201 to R214). A statement ends with
`hpc <- hpc + 1` unless its rule says otherwise (R200). A fault of an access is the statement's fault (R204). -/

namespace Sys2Proof.Machine

/-- The end of a statement that made a host access: a fault or refusal of the access is the statement's (R204). -/
def afterAccess (r : Result) (f : State → State) : Result :=
  match r with
  | .next s => .next (f s)
  | .fault c => .fault c
  | .refused c => .refused c

/-- HOST.WAITDONE: hold until DONE = 1, a level (R201). While it holds the host has no step and the state stays (R9). -/
def execHostWaitdone (s : State) : Result :=
  if s.wakeDone then .next s.advance else .next s

/-- HOST.SLEEP: hold until EVPEND = 1 or the draw `spurious_wake` (R202). -/
def execHostSleep (spurious : Bool) (s : State) : Result :=
  if s.wakeEv || spurious then .next s.advance else .next s

/-- `li hN, imm` (R203). -/
def execHarnessLi (n : HReg) (imm : Byte) (s : State) : Result := .next (s.setH n imm).advance

/-- `wr OFF, imm` (R204). -/
def execHarnessWr (off : Offset) (imm : Byte) (s : State) : Result := afterAccess (hostWrite off imm s) State.advance

/-- `wrr OFF, hN` (R205). -/
def execHarnessWrr (off : Offset) (n : HReg) (s : State) : Result :=
  afterAccess (hostWrite off (s.readH n) s) State.advance

/-- `rd hN, OFF`: the access, side effect and all, then the returned byte to `hN`; a refused read writes nothing (R206). -/
def execHarnessRd (n : HReg) (off : Offset) (s : State) : Result :=
  afterAccess (hostRead off s) fun t => (t.setH n t.rdata).advance

/-- `addi hN, imm`: 8-bit wrap-around (R207). -/
def execHarnessAddi (n : HReg) (imm : Byte) (s : State) : Result := .next (s.setH n (s.readH n + imm)).advance

/-- `andi hN, imm` (R208). -/
def execHarnessAndi (n : HReg) (imm : Byte) (s : State) : Result := .next (s.setH n (s.readH n &&& imm)).advance

/-- A branch to `l`, taken or not (R209 to R211). -/
def State.branch (s : State) (taken : Bool) (l : Nat) : State := if taken then s.jump l else s.advance

/-- `beqz hN, L` (R209). -/
def execHarnessBeqz (n : HReg) (l : Nat) (s : State) : Result := .next (s.branch (s.readH n == 0) l)

/-- `bnez hN, L` (R210). -/
def execHarnessBnez (n : HReg) (l : Nat) (s : State) : Result := .next (s.branch (s.readH n != 0) l)

/-- `beqi hN, imm, L` (R211). -/
def execHarnessBeqi (n : HReg) (imm : Byte) (l : Nat) (s : State) : Result := .next (s.branch (s.readH n == imm) l)

/-- `jmp L` (R212). -/
def execHarnessJmp (l : Nat) (s : State) : Result := .next (s.jump l)

/-- `log hN` (R213). -/
def execHarnessLog (n : HReg) (s : State) : Result := .next (State.advance { s with log := s.log ++ [s.readH n] })

/-- `halt`: `hpc` is left at the statement (R214). -/
def execHarnessHalt (s : State) : Result := .next { s with halted := true }

end Sys2Proof.Machine
end

