-- ==== Sys2Proof/Machine/Dispatch.lean ====
section
/-! DEFINITION. The meaning of each instruction. -/

namespace Sys2Proof.Machine

def exec (i : Instr) (s : State) : Host.Outcome State Fault Refusal :=
  match i with
  | .i2cNop => Sys2Proof.Machine.execI2cNop s
  | .i2cInit => Sys2Proof.Machine.execI2cInit s
  | .i2cWrite => Sys2Proof.Machine.execI2cWrite s
  | .i2cReadreg => Sys2Proof.Machine.execI2cReadreg s
  | .ctrlReserved0407 v => Sys2Proof.Machine.execCtrlReserved0407 v s
  | .ctrlReserved080F v => Sys2Proof.Machine.execCtrlReserved080F v s
  | .ctrlReserved101F v => Sys2Proof.Machine.execCtrlReserved101F v s
  | .ctrlReserved203F v => Sys2Proof.Machine.execCtrlReserved203F v s
  | .ctrlReserved407F v => Sys2Proof.Machine.execCtrlReserved407F v s
  | .ctrlReserved80FF v => Sys2Proof.Machine.execCtrlReserved80FF v s
  | .wrStatus v => Sys2Proof.Machine.execWrStatus v s
  | .wrSaddr v => Sys2Proof.Machine.execWrSaddr v s
  | .wrLen v => Sys2Proof.Machine.execWrLen v s
  | .wrBufl v => Sys2Proof.Machine.execWrBufl v s
  | .wrBufh v => Sys2Proof.Machine.execWrBufh v s
  | .wrRegidx v => Sys2Proof.Machine.execWrRegidx v s
  | .wrRxdata v => Sys2Proof.Machine.execWrRxdata v s
  | .wrClkdiv v => Sys2Proof.Machine.execWrClkdiv v s
  | .wrCfg v => Sys2Proof.Machine.execWrCfg v s
  | .wrIfg v => Sys2Proof.Machine.execWrIfg v s
  | .wrEvbits v => Sys2Proof.Machine.execWrEvbits v s
  | .evPost v => Sys2Proof.Machine.execEvPost v s
  | .wrEvtake v => Sys2Proof.Machine.execWrEvtake v s
  | .rdCtrl v => Sys2Proof.Machine.execRdCtrl v s
  | .rdStatus v => Sys2Proof.Machine.execRdStatus v s
  | .rdSaddr v => Sys2Proof.Machine.execRdSaddr v s
  | .rdLen v => Sys2Proof.Machine.execRdLen v s
  | .rdBufl v => Sys2Proof.Machine.execRdBufl v s
  | .rdBufh v => Sys2Proof.Machine.execRdBufh v s
  | .rdRegidx v => Sys2Proof.Machine.execRdRegidx v s
  | .rdRxdata v => Sys2Proof.Machine.execRdRxdata v s
  | .rdClkdiv v => Sys2Proof.Machine.execRdClkdiv v s
  | .rdCfg v => Sys2Proof.Machine.execRdCfg v s
  | .rdIfg v => Sys2Proof.Machine.execRdIfg v s
  | .rdEvbits v => Sys2Proof.Machine.execRdEvbits v s
  | .rdEvset v => Sys2Proof.Machine.execRdEvset v s
  | .evTake v => Sys2Proof.Machine.execEvTake v s
  | .offReserved a b c => Sys2Proof.Machine.execOffReserved a b c s
  | .busAddrAck v => Sys2Proof.Machine.execBusAddrAck v s
  | .busDataAck v => Sys2Proof.Machine.execBusDataAck v s
  | .busRxByte v => Sys2Proof.Machine.execBusRxByte v s
  | .engSvcRx => Sys2Proof.Machine.execEngSvcRx s
  | .engSvcTx => Sys2Proof.Machine.execEngSvcTx s
  | .engSvcNack => Sys2Proof.Machine.execEngSvcNack s
  | .engSvcStop => Sys2Proof.Machine.execEngSvcStop s
  | .prodEvIn v => Sys2Proof.Machine.execProdEvIn v s
  | .hostWaitdone => Sys2Proof.Machine.execHostWaitdone s
  | .hostSleep v => Sys2Proof.Machine.execHostSleep v s
  | .harnessLi a b => Sys2Proof.Machine.execHarnessLi a b s
  | .harnessWr a b => Sys2Proof.Machine.execHarnessWr a b s
  | .harnessWrr a b => Sys2Proof.Machine.execHarnessWrr a b s
  | .harnessRd a b => Sys2Proof.Machine.execHarnessRd a b s
  | .harnessAddi a b => Sys2Proof.Machine.execHarnessAddi a b s
  | .harnessAndi a b => Sys2Proof.Machine.execHarnessAndi a b s
  | .harnessBeqz a b => Sys2Proof.Machine.execHarnessBeqz a b s
  | .harnessBnez a b => Sys2Proof.Machine.execHarnessBnez a b s
  | .harnessBeqi a b c => Sys2Proof.Machine.execHarnessBeqi a b c s
  | .harnessJmp v => Sys2Proof.Machine.execHarnessJmp v s
  | .harnessLog v => Sys2Proof.Machine.execHarnessLog v s
  | .harnessHalt => Sys2Proof.Machine.execHarnessHalt s

end Sys2Proof.Machine
end

