-- ==== Sys2Proof/Machine/Step.lean ====
section
/-! DEFINITION. One step of the machine: one turn of one agent (00_scope.md R4). -/

namespace Sys2Proof.Machine

/-- Take the next turn and do what it comes to. -/
def step (s : State) : Host.Outcome State Fault Refusal :=
  match nextTurn s with
  | (t, s') =>
    match turnAction t s' with
    | .run i => exec i s'
    | .settle s'' => .next s''
    | .raise c => raise c s'
    | .stopped => .refused .afterFault

/-- `s` with the access word `w` as the host's next access, so that the next step executes it. How a program comes to run
from reset: notes/assumptions/11.md. A turn holds 13 bits (R90): bits of `w` from `nbits` or from 13 on are dropped, where
`decodeTableWord` answers none to a word with a bit above 12. DESIGN CHOICE: notes/assumptions/11.md. -/
def State.withFetchWord (s : State) (nbits w : Nat) : State :=
  { s with agenda := .access 8 (BitVec.ofNat 13 (w % 2 ^ nbits)) :: s.agenda }

end Sys2Proof.Machine
end

