-- ==== Sys2Proof/Machine/Assembler.lean ====
section
/-! DEFINITION. The text of harness programs: one statement a line, labels, register names, immediates, and the
pseudo-instructions with their expansions (30_encoding.md R91 to R93). The source has no assembler; what R91 leaves open
is fixed by notes/assumptions/18.md. -/

namespace Sys2Proof.Machine

/-! ## Pseudo-instructions (R93) -/

/-- The pseudo-instructions of R93; they stand for the source's calls. The range of `evPost`'s `k` is a DESIGN CHOICE:
notes/assumptions/18.md. -/
inductive Pseudo where
  | i2cInit
  | i2cWrite (a : Byte) (b : HostAddr) (n : Byte)
  | i2cReadreg (hn : HReg) (a r : Byte)
  | evPost (k : Fin 4)
  | evTake (hn : HReg)
  | nop
deriving DecidableEq, Repr

/-- The expansion, which is the meaning (R93): `lo(b)` is `b[7:0]`, `hi(b)` is `b[15:8]`. -/
def Pseudo.expand : Pseudo → List Stmt
  | .i2cInit => [.wr 0x0 0x01]
  | .i2cWrite a b n =>
    [.wr 0x2 a, .wr 0x3 n, .wr 0x4 (b.extractLsb' 0 8), .wr 0x5 (b.extractLsb' 8 8), .wr 0x0 0x02, .waitdone]
  | .i2cReadreg hn a r => [.wr 0x2 a, .wr 0x6 r, .wr 0x0 0x03, .waitdone, .rd hn 0x7]
  | .evPost k => [.wr 0xC (1#8 <<< k.val)]
  | .evTake hn => [.rd hn 0xD]
  | .nop => [.wr 0x0 0x00]

/-! ## Words of a line -/

/-- The value of a digit in a base; capital and small letters are the digits 10 to 15. -/
def digitValue (c : Char) (base : Nat) : Option Nat :=
  let v :=
    if '0' ≤ c ∧ c ≤ '9' then c.toNat - '0'.toNat
    else if 'a' ≤ c ∧ c ≤ 'f' then c.toNat - 'a'.toNat + 10
    else if 'A' ≤ c ∧ c ≤ 'F' then c.toNat - 'A'.toNat + 10
    else base
  if v < base then some v else none

/-- The value of a non-empty run of digits, `acc` standing for the digits before. -/
def digitsValue (base : Nat) : List Char → Nat → Option Nat
  | [], acc => some acc
  | c :: cs, acc =>
    match digitValue c base with
    | some v => digitsValue base cs (acc * base + v)
    | none => none

/-- A number: `0x..` hexadecimal, `0b..` binary, or decimal (R91). -/
def parseNumber : List Char → Option Nat
  | [] => none
  | ['0', 'x'] => none
  | ['0', 'b'] => none
  | '0' :: 'x' :: cs => digitsValue 16 cs 0
  | '0' :: 'b' :: cs => digitsValue 2 cs 0
  | cs => digitsValue 10 cs 0

/-- A number below `2 ^ w`. -/
def parseBits (w : Nat) (t : List Char) : Option (BitVec w) :=
  match parseNumber t with
  | some v => if v < 2 ^ w then some (BitVec.ofNat w v) else none
  | none => none

/-- A harness register, `h0` to `h7`. -/
def parseHReg : List Char → Option HReg
  | ['h', '0'] => some 0
  | ['h', '1'] => some 1
  | ['h', '2'] => some 2
  | ['h', '3'] => some 3
  | ['h', '4'] => some 4
  | ['h', '5'] => some 5
  | ['h', '6'] => some 6
  | ['h', '7'] => some 7
  | _ => none

/-- The names of the offsets (R91, R20). -/
def offsetNames : List (String × Offset) :=
  [("CTRL", 0x0), ("STATUS", 0x1), ("SADDR", 0x2), ("LEN", 0x3), ("BUFL", 0x4), ("BUFH", 0x5), ("REGIDX", 0x6)] ++
    [("RXDATA", 0x7), ("CLKDIV", 0x8), ("CFG", 0x9), ("IFG", 0xA), ("EVBITS", 0xB), ("EVSET", 0xC), ("EVTAKE", 0xD)]

/-- An offset: a register's name, or `0x0` to `0xF` (R91). That any other form of a number below 16 (decimal, `0b..`,
leading zeros) is read too is a DESIGN CHOICE: notes/assumptions/18.md. -/
def parseOffset (t : List Char) : Option Offset :=
  match offsetNames.find? (fun p => p.1.toList == t) with
  | some p => some p.2
  | none => parseBits 4 t

/-- The operand `k` of `ev.post k` (R93), an event kind by its bit. R93 gives `k` no range; that it is 0 to 3, the bits of
EVBITS, and that the text of any other `k` is no statement, is a DESIGN CHOICE: notes/assumptions/18.md. -/
def parseEvent (t : List Char) : Option (Fin 4) :=
  match parseNumber t with
  | some v => if h : v < 4 then some ⟨v, h⟩ else none
  | none => none

/-- A branch target: a label, by the table `look`, or a statement index as a number. -/
def parseTarget (look : List Char → Nat) (t : List Char) : Nat :=
  match parseNumber t with
  | some v => v
  | none => look t

/-- Leading and trailing spaces off. -/
def trimSpaces (t : List Char) : List Char :=
  ((t.dropWhile (· == ' ')).reverse.dropWhile (· == ' ')).reverse

/-- The text before the first `c`, and the text after it if there is one. -/
def cutAt (c : Char) : List Char → List Char × Option (List Char)
  | [] => ([], none)
  | x :: xs =>
    if x = c then ([], some xs)
    else match cutAt c xs with
      | (a, b) => (x :: a, b)

/-- The operands: what stands between commas, less spaces. -/
def splitOperands (t : List Char) : List (List Char) :=
  if trimSpaces t = [] then [] else (t.splitOn ',').map trimSpaces

/-- A line in its parts: label, mnemonic, operands (R91). -/
structure Line where
  label    : Option (List Char)
  mnemonic : List Char
  operands : List (List Char)
deriving DecidableEq, Repr

/-- `name: mnemonic operand, operand ; comment` in its parts; label and comment are optional (R91). -/
def splitLine (line : String) : Line :=
  let body := (cutAt ';' line.toList).1
  let (label, rest) :=
    match cutAt ':' body with
    | (a, some b) => (some (trimSpaces a), b)
    | (a, none) => (none, a)
  let (mnemonic, operands) := cutAt ' ' (trimSpaces rest)
  ⟨label, mnemonic, splitOperands (operands.getD [])⟩

/-- The statements a line holds: one, the expansion of a pseudo-instruction (R93), or none where there is only a label
or a comment; no value where the line is not of the syntax of R91. -/
def parseStatement (look : List Char → Nat) (l : Line) : Option (List Stmt) :=
  match String.ofList l.mnemonic, l.operands with
  | "", [] => some []
  | "waitdone", [] => some [.waitdone]
  | "sleep", [] => some [.sleep]
  | "halt", [] => some [.halt]
  | "nop", [] => some Pseudo.nop.expand
  | "i2c.init", [] => some Pseudo.i2cInit.expand
  | "li", [a, b] => do return [.li (← parseHReg a) (← parseBits 8 b)]
  | "wr", [a, b] => do return [.wr (← parseOffset a) (← parseBits 8 b)]
  | "wrr", [a, b] => do return [.wrr (← parseOffset a) (← parseHReg b)]
  | "rd", [a, b] => do return [.rd (← parseHReg a) (← parseOffset b)]
  | "addi", [a, b] => do return [.addi (← parseHReg a) (← parseBits 8 b)]
  | "andi", [a, b] => do return [.andi (← parseHReg a) (← parseBits 8 b)]
  | "beqz", [a, b] => do return [.beqz (← parseHReg a) (parseTarget look b)]
  | "bnez", [a, b] => do return [.bnez (← parseHReg a) (parseTarget look b)]
  | "beqi", [a, b, c] => do return [.beqi (← parseHReg a) (← parseBits 8 b) (parseTarget look c)]
  | "jmp", [a] => some [.jmp (parseTarget look a)]
  | "log", [a] => do return [.log (← parseHReg a)]
  | "ev.post", [a] => do return (Pseudo.evPost (← parseEvent a)).expand
  | "ev.take", [a] => do return (Pseudo.evTake (← parseHReg a)).expand
  | "i2c.write", [a, b, c] =>
    do return (Pseudo.i2cWrite (← parseBits 8 a) (← parseBits 16 b) (← parseBits 8 c)).expand
  | "i2c.readreg", [a, b, c] =>
    do return (Pseudo.i2cReadreg (← parseHReg a) (← parseBits 8 b) (← parseBits 8 c)).expand
  | _, _ => none

/-- The statements of the lines, in order. -/
def parseLines (look : List Char → Nat) : List Line → Option (List Stmt)
  | [] => some []
  | l :: ls =>
    match parseStatement look l, parseLines look ls with
    | some a, some b => some (a ++ b)
    | _, _ => none

/-- A label names the index of the statement it precedes (R200). `i` is the index of the next statement. -/
def labelTable : List Line → Nat → List (List Char × Nat)
  | [], _ => []
  | l :: ls, i =>
    let next := i + ((parseStatement (fun _ => 0) l).getD []).length
    match l.label with
    | some name => (name, i) :: labelTable ls next
    | none => labelTable ls next

/-- A program's text to its statements. A label that is missing is the index after the last statement, which is no
statement, so that a jump to it is F_HPC (R215). -/
def assemble (text : List String) : Option (List Stmt) :=
  let lines := text.map splitLine
  let missing := ((parseLines (fun _ => 0) lines).getD []).length
  let table := labelTable lines 0
  parseLines (fun name => (table.lookup name).getD missing) lines

end Sys2Proof.Machine
end

