-- ==== Sys2Proof/Safety.lean ====
section
/-! DEFINITION. The end of a run, the hang, the machine invariant, and the schedules of complete transactions
(44_host_harness.md R216, 41_i2c_bus_engine.md R131 to R133, 10_state.md R50). -/

namespace Sys2Proof.Machine

/-! ## The end of a run -/

/-- A final state: halted, not BUSY, no flag pending, no fault recorded (R216). -/
def State.isFinal (s : State) : Bool := s.halted && !s.busy && s.ifg == .none && s.faults == []

/-- A run is safe when it ends in no fault and no refusal. -/
def isSafe : Result → Bool
  | .next _ => true
  | .fault _ => false
  | .refused _ => false

/-! ## The invariant -/

/-- The flags that may be pending in a phase (R50 d, e): TXIF alone in LOAD; NACKIF alone, or STPIF with or without
RXIF, in HOLD; none elsewhere. -/
def Ifg.fits (f : Ifg) : Phase → Bool
  | .load => f == ⟨false, true, false, false⟩
  | .hold => f == ⟨false, false, false, true⟩ || f == ⟨true, false, true, false⟩ || f == ⟨false, false, true, false⟩
  | .idle | .addr | .txbyte | .rxbyte => f == .none

/-- What the phase says of the cursor: nothing loaded in ADDR and at least one byte counted, a byte still to load in
LOAD, the read direction in RXBYTE. -/
def Transaction.fits (t : Transaction) : Phase → Bool
  | .addr => t.cursor == 0 && t.len != 0
  | .load => decide (t.cursor.toNat < t.len.toNat)
  | .rxbyte => t.dir == .read
  | .idle | .txbyte | .hold => true

/-- The machine invariant, R50 (a) to (e) with what makes it inductive. Every step keeps it. -/
structure Inv (s : State) : Prop where
  /-- No fault is recorded. -/
  noFault : s.faults = []
  /-- R50 (a), R24. -/
  busy_iff : s.busy = true ↔ s.txn.cmd ≠ .none
  /-- R50 (b), R24. -/
  idle_iff : s.ph = .idle ↔ s.busy = false
  /-- R24, R41. -/
  emptyWhenIdle : s.busy = false → s.txn = .empty
  /-- R50 (c). -/
  cursor_le : s.txn.cursor.toNat ≤ s.txn.len.toNat
  /-- R50 (d), (e). -/
  flags : s.ifg.fits s.ph = true
  /-- R122, R123. -/
  cursor : s.txn.fits s.ph = true
  /-- CFG is 0x00 or 0xF7 (R34). -/
  cfg_legal : s.cfg = .reset ∨ s.cfg = .afterInit
  /-- A transaction starts only after INIT (R102, R103). -/
  cfg_busy : s.busy = true → s.cfg = .afterInit
  /-- Stage R is a READREG's (R40, R130). -/
  stage_cmd : s.txn.stage = .r → s.txn.cmd = .readreg
  /-- The direction is read exactly in stage R (R130). -/
  dir_stage : s.txn.dir = .read ↔ s.txn.stage = .r
  /-- A WRITE's bytes come from host memory, a READREG's from `T.reg` (R102, R103). -/
  src_cmd : s.txn.src = .reg ↔ s.txn.cmd = .readreg
  /-- The buffer of a WRITE fits below 0x10000 (R69, R102). -/
  buf_fits : s.txn.cmd = .write → s.txn.buf.toNat + s.txn.len.toNat ≤ 0x10000
  /-- DONE and BUSY are never 1 together (R23, R24). -/
  done_busy : ¬(s.done = true ∧ s.busy = true)
  /-- CAUSE is set by the completion that sets DONE (R25). -/
  done_cause : s.done = true ↔ s.cause ≠ .none
  /-- Host memory is in canonical form. -/
  mem_wf : Memory.wf s.mem = true

/-! ## Schedules of complete transactions -/

/-- The turns of `n` data bytes, each acknowledged: the engine loads, the slave answers ACK. -/
def dataTurns : Nat → List Turn
  | 0 => []
  | n + 1 => .engine :: .bus true 0x00 :: dataTurns n

/-- A WRITE of `n` bytes with every answer ACK: address ACK, `n` data bytes, the STOP service (R131). -/
def writeTurns (n : Nat) : List Turn := .bus true 0x00 :: (dataTurns n ++ [.engine])

/-- A WRITE whose data byte `j` is answered NACK (R131). -/
def writeNackTurns (j : Nat) : List Turn :=
  .bus true 0x00 :: (dataTurns j ++ [.engine, .bus false 0x00, .engine])

/-- The symbols of `n` acknowledged data bytes of host memory from address `a` on, in ascending order (R61). -/
def dataSyms (s : State) (a : HostAddr) : Nat → List Sym
  | 0 => []
  | n + 1 => .d (s.byteAt a) true :: dataSyms s (a + 1) n

/-- Every byte of the `n` from address `a` on is in MEMWIN. -/
def windowHolds (s : State) (a : HostAddr) : Nat → Bool
  | 0 => true
  | n + 1 => s.par.inWindow a && windowHolds s (a + 1) n

/-- How the slave answers stage W of a READREG, the write of the register index. -/
inductive IndexWrite where
  | acked
  | addressNacked
  | indexNacked
deriving DecidableEq, Repr

/-- The turns of stage W, to the service that starts stage R (R132). -/
def IndexWrite.turns : IndexWrite → List Turn
  | .acked => [.bus true 0x00, .engine, .bus true 0x00, .engine]
  | .addressNacked => [.bus false 0x00, .engine]
  | .indexNacked => [.bus true 0x00, .engine, .bus false 0x00, .engine]

/-- What stage W puts on the bus, for the slave address `addr` and the register `r` (R132). -/
def IndexWrite.syms (addr : BitVec 7) (r : Byte) : IndexWrite → List Sym
  | .acked => [.s, .a (addr ++ 0#1) true, .d r true, .p]
  | .addressNacked => [.s, .a (addr ++ 0#1) false, .p]
  | .indexNacked => [.s, .a (addr ++ 0#1) true, .d r false, .p]

/-- Was there a NACK in stage W? -/
def IndexWrite.nacked : IndexWrite → Bool
  | .acked => false
  | .addressNacked => true
  | .indexNacked => true

/-- Stage R answered ACK with the byte `v`: address, byte, and the two services (R132). -/
def readTurns (v : Byte) : List Turn := [.bus true 0x00, .bus true v, .engine, .engine]

/-- Stage R with its address answered NACK (R132). -/
def readNackTurns : List Turn := [.bus false 0x00, .engine]

/-! ## Agents and units -/

/-- The agent whose step an instruction is (R3, R89). -/
inductive Agent where
  | host
  | engine
  | bus
  | producers
deriving DecidableEq, Repr

end Sys2Proof.Machine

namespace Sys2Proof

open Sys2Proof.Machine in
/-- The agent that steps: ACCESS, WAIT and HARNESS rows are the host's (R89). -/
def Instr.agent (i : Instr) : Agent :=
  match i with
  | .busAddrAck _ | .busDataAck _ | .busRxByte _ => .bus
  | .engSvcRx | .engSvcTx | .engSvcNack | .engSvcStop => .engine
  | .prodEvIn _ => .producers
  | .i2cNop | .i2cInit | .i2cWrite | .i2cReadreg
  | .ctrlReserved0407 _ | .ctrlReserved080F _ | .ctrlReserved101F _
  | .ctrlReserved203F _ | .ctrlReserved407F _ | .ctrlReserved80FF _
  | .wrStatus _ | .wrSaddr _ | .wrLen _ | .wrBufl _ | .wrBufh _ | .wrRegidx _ | .wrRxdata _
  | .wrClkdiv _ | .wrCfg _ | .wrIfg _ | .wrEvbits _ | .evPost _ | .wrEvtake _
  | .rdCtrl _ | .rdStatus _ | .rdSaddr _ | .rdLen _ | .rdBufl _ | .rdBufh _ | .rdRegidx _ | .rdRxdata _
  | .rdClkdiv _ | .rdCfg _ | .rdIfg _ | .rdEvbits _ | .rdEvset _ | .evTake _ | .offReserved _ _ _
  | .hostWaitdone | .hostSleep _
  | .harnessLi _ _ | .harnessWr _ _ | .harnessWrr _ _ | .harnessRd _ _ | .harnessAddi _ _ | .harnessAndi _ _
  | .harnessBeqz _ _ | .harnessBnez _ _ | .harnessBeqi _ _ _ | .harnessJmp _ | .harnessLog _ | .harnessHalt => .host

/-- The rows of BusEngine: its commands, its bus steps and its services (R159). -/
def Instr.isBusEngine (i : Instr) : Bool :=
  match i with
  | .i2cNop | .i2cInit | .i2cWrite | .i2cReadreg
  | .busAddrAck _ | .busDataAck _ | .busRxByte _ | .engSvcRx | .engSvcTx | .engSvcNack | .engSvcStop => true
  | .ctrlReserved0407 _ | .ctrlReserved080F _ | .ctrlReserved101F _
  | .ctrlReserved203F _ | .ctrlReserved407F _ | .ctrlReserved80FF _
  | .wrStatus _ | .wrSaddr _ | .wrLen _ | .wrBufl _ | .wrBufh _ | .wrRegidx _ | .wrRxdata _
  | .wrClkdiv _ | .wrCfg _ | .wrIfg _ | .wrEvbits _ | .evPost _ | .wrEvtake _
  | .rdCtrl _ | .rdStatus _ | .rdSaddr _ | .rdLen _ | .rdBufl _ | .rdBufh _ | .rdRegidx _ | .rdRxdata _
  | .rdClkdiv _ | .rdCfg _ | .rdIfg _ | .rdEvbits _ | .rdEvset _ | .evTake _ | .offReserved _ _ _
  | .prodEvIn _ | .hostWaitdone | .hostSleep _
  | .harnessLi _ _ | .harnessWr _ _ | .harnessWrr _ _ | .harnessRd _ _ | .harnessAddi _ _ | .harnessAndi _ _
  | .harnessBeqz _ _ | .harnessBnez _ _ | .harnessBeqi _ _ _ | .harnessJmp _ | .harnessLog _ | .harnessHalt => false

end Sys2Proof

namespace Sys2Proof.Machine

/-- The same outcome, with EVBITS replaced by `e` in the state it holds. -/
def withEventBits (e : BitVec 4) : Result → Result
  | .next t => .next { t with evbits := e }
  | .fault (.raised c t) => .fault (.raised c { t with evbits := e })
  | .refused r => .refused r

/-- The bus waits for the slave: the bus agent is the one to step (R42, R120). -/
def Phase.waitsForBus : Phase → Bool
  | .addr | .txbyte | .rxbyte => true
  | .idle | .load | .hold => false

end Sys2Proof.Machine

namespace Sys2Proof

/-- A turn of the bus agent, or power-on reset: what a hung transaction waits for (R133, R269). -/
def Turn.canUnhang : Turn → Bool
  | .bus _ _ | .powerOn => true
  | .access _ _ | .mapped _ _ _ _ | .host _ | .engine | .producer _ | .store _ _ => false

/-- A turn in which no host access is made outside the harness program, and no reset. -/
def Turn.isProgramRun : Turn → Bool
  | .host _ | .bus _ _ | .engine | .producer _ | .store _ _ => true
  | .access _ _ | .mapped _ _ _ _ | .powerOn => false

/-- A statement that makes a write access to CTRL. -/
def Stmt.writesCtrl : Stmt → Bool
  | .wr off _ => off == 0x0
  | .wrr off _ => off == 0x0
  | .waitdone | .sleep | .li _ _ | .rd _ _ | .addi _ _ | .andi _ _ | .beqz _ _ | .bnez _ _ | .beqi _ _ _ | .jmp _
  | .log _ | .halt => false

/-- A statement that can start a transaction: it writes WRITE or READREG to CTRL, or a register's byte, which may be
either. -/
def Stmt.mayStart : Stmt → Bool
  | .wr off v => off == 0x0 && (v == 0x02 || v == 0x03)
  | .wrr off _ => off == 0x0
  | .waitdone | .sleep | .li _ _ | .rd _ _ | .addi _ _ | .andi _ _ | .beqz _ _ | .bnez _ _ | .beqi _ _ _ | .jmp _
  | .log _ | .halt => false

/-- The statement after one that can start a transaction is `waitdone`, as R93's expansions have it. -/
def commandsAreWaitedFor : List Stmt → Bool
  | [] => true
  | st :: p => (!st.mayStart || p.head? == some .waitdone) && commandsAreWaitedFor p

end Sys2Proof

namespace Sys2Proof.Machine

/-- The program invariant (R94): while BUSY the program stands at the `waitdone` after the command. Every step of a run
with no host access outside the program keeps it. -/
structure ProgramInv (s : State) : Prop where
  /-- R50. -/
  machine : Inv s
  /-- R93: the program waits after each command. -/
  program : commandsAreWaitedFor s.prog = true
  /-- R94, R201. -/
  waits : s.busy = true → s.prog[s.hpc]? = some .waitdone

end Sys2Proof.Machine
end

