-- ==== Sys2Proof/Certificates/Slice0/Obligations.lean ====
section
/-! DEFINITION. The statements for the provers, in the order of OBLIGATIONS.json. -/

open Sys2Proof Sys2Proof.Machine

/-! ## Encoding -/

/-- R92, R82, R88 with the access words the spec prints: what each stands for. -/
def Obligations.SampleWordsDecode : Prop :=
  decodeWord 0x1240 = .wrSaddr 0x40 ∧ decodeWord 0x0100 = .rdStatus 0x00 ∧ decodeWord 0x1002 = .i2cWrite ∧
  decodeWord 0x1000 = .i2cNop ∧ decodeWord 0x1001 = .i2cInit ∧ decodeWord 0x1003 = .i2cReadreg ∧
  decodeWord 0x1C08 = .evPost 0x08 ∧ decodeWord 0x0D00 = .evTake 0x00 ∧ decodeWord 0x0700 = .rdRxdata 0x00 ∧
  decodeWord 0x10FF = .ctrlReserved80FF 0x7F ∧ decodeWord 0x0E00 = .offReserved false false 0x00 ∧
  decodeWord 0x1F12 = .offReserved true true 0x12

/-- R81, R82: the decode table, for every DATA byte. A write to CTRL goes by its DATA: the four commands, and the
reserved row of every other byte. -/
def Obligations.AccessTableDecodes : Prop :=
  ∀ v : Byte,
    (v = 0x00 → decodeWord (0x1000 ||| v.setWidth 13) = .i2cNop) ∧
    (v = 0x01 → decodeWord (0x1000 ||| v.setWidth 13) = .i2cInit) ∧
    (v = 0x02 → decodeWord (0x1000 ||| v.setWidth 13) = .i2cWrite) ∧
    (v = 0x03 → decodeWord (0x1000 ||| v.setWidth 13) = .i2cReadreg) ∧
    (0x04 ≤ v ∧ v ≤ 0x07 → decodeWord (0x1000 ||| v.setWidth 13) = .ctrlReserved0407 (v.setWidth 2)) ∧
    (0x08 ≤ v ∧ v ≤ 0x0F → decodeWord (0x1000 ||| v.setWidth 13) = .ctrlReserved080F (v.setWidth 3)) ∧
    (0x10 ≤ v ∧ v ≤ 0x1F → decodeWord (0x1000 ||| v.setWidth 13) = .ctrlReserved101F (v.setWidth 4)) ∧
    (0x20 ≤ v ∧ v ≤ 0x3F → decodeWord (0x1000 ||| v.setWidth 13) = .ctrlReserved203F (v.setWidth 5)) ∧
    (0x40 ≤ v ∧ v ≤ 0x7F → decodeWord (0x1000 ||| v.setWidth 13) = .ctrlReserved407F (v.setWidth 6)) ∧
    (0x80 ≤ v → decodeWord (0x1000 ||| v.setWidth 13) = .ctrlReserved80FF (v.setWidth 7)) ∧
    decodeWord (0x1100 ||| v.setWidth 13) = .wrStatus v ∧ decodeWord (0x1200 ||| v.setWidth 13) = .wrSaddr v ∧
    decodeWord (0x1300 ||| v.setWidth 13) = .wrLen v ∧ decodeWord (0x1400 ||| v.setWidth 13) = .wrBufl v ∧
    decodeWord (0x1500 ||| v.setWidth 13) = .wrBufh v ∧ decodeWord (0x1600 ||| v.setWidth 13) = .wrRegidx v ∧
    decodeWord (0x1700 ||| v.setWidth 13) = .wrRxdata v ∧ decodeWord (0x1800 ||| v.setWidth 13) = .wrClkdiv v ∧
    decodeWord (0x1900 ||| v.setWidth 13) = .wrCfg v ∧ decodeWord (0x1A00 ||| v.setWidth 13) = .wrIfg v ∧
    decodeWord (0x1B00 ||| v.setWidth 13) = .wrEvbits v ∧ decodeWord (0x1C00 ||| v.setWidth 13) = .evPost v ∧
    decodeWord (0x1D00 ||| v.setWidth 13) = .wrEvtake v ∧
    decodeWord (0x1E00 ||| v.setWidth 13) = .offReserved true false v ∧
    decodeWord (0x1F00 ||| v.setWidth 13) = .offReserved true true v ∧
    decodeWord (0x0000 ||| v.setWidth 13) = .rdCtrl v ∧ decodeWord (0x0100 ||| v.setWidth 13) = .rdStatus v ∧
    decodeWord (0x0200 ||| v.setWidth 13) = .rdSaddr v ∧ decodeWord (0x0300 ||| v.setWidth 13) = .rdLen v ∧
    decodeWord (0x0400 ||| v.setWidth 13) = .rdBufl v ∧ decodeWord (0x0500 ||| v.setWidth 13) = .rdBufh v ∧
    decodeWord (0x0600 ||| v.setWidth 13) = .rdRegidx v ∧ decodeWord (0x0700 ||| v.setWidth 13) = .rdRxdata v ∧
    decodeWord (0x0800 ||| v.setWidth 13) = .rdClkdiv v ∧ decodeWord (0x0900 ||| v.setWidth 13) = .rdCfg v ∧
    decodeWord (0x0A00 ||| v.setWidth 13) = .rdIfg v ∧ decodeWord (0x0B00 ||| v.setWidth 13) = .rdEvbits v ∧
    decodeWord (0x0C00 ||| v.setWidth 13) = .rdEvset v ∧ decodeWord (0x0D00 ||| v.setWidth 13) = .evTake v ∧
    decodeWord (0x0E00 ||| v.setWidth 13) = .offReserved false false v ∧
    decodeWord (0x0F00 ||| v.setWidth 13) = .offReserved false true v

/-- Every instruction that has an encoding is decoded from it, with every operand, and the bytes after it are left.
The byte layout is the model's choice: notes/assumptions/10.md. -/
def Obligations.EncodedBytesDecodeBack : Prop :=
  ∀ (i : Instr) (bs rest : List Byte), encode i = some bs → decode (bs ++ rest) = .instr i rest

/-- R90: every 13-bit word is one access, and no bit of it is dropped. -/
def Obligations.EveryWordEncodesBack : Prop :=
  ∀ w : AccessWord, encodeWord (decodeWord w) = some w

/-- Every word is an instance of the opcode table's row of the instruction it decodes to. -/
def Obligations.DecodedWordMatchesTableRow : Prop :=
  ∀ w : AccessWord, ∃ r, accessRow (decodeWord w) = some r ∧ w &&& r.mask = r.pattern

/-! ## The step -/

/-- A host access turn executes the instruction its access word decodes to. -/
def Obligations.StepRunsAccessWord : Prop :=
  ∀ (s : State) (w : AccessWord) (ts : List Turn), s.faults = [] → s.agenda = .access 8 w :: ts →
    step s = exec (decodeWord w) { s with agenda := ts }

/-- R68: an access at `BASE + off` is the access at offset `off`; elsewhere the block is not addressed. A wide access that
reaches into the block from below is F_WIDTH, the model's reading: notes/assumptions/13.md. -/
def Obligations.StepRunsMappedAccess : Prop :=
  ∀ (s : State) (write : Bool) (data : Byte) (ts : List Turn), s.faults = [] →
    (∀ off : Offset, s.agenda = .mapped (s.par.base + off.toNat) 8 write data :: ts →
      step s = exec (decodeWord (accessWord (BitVec.ofBool write ++ off) data)) { s with agenda := ts }) ∧
    (∀ addr width : Nat, addr + (width + 7) / 8 ≤ s.par.base ∧ addr < s.par.base ∨ s.par.base + 16 ≤ addr →
      s.agenda = .mapped addr width write data :: ts → step s = .next { s with agenda := ts }) ∧
    (∀ addr width : Nat, addr < s.par.base → s.par.base < addr + (width + 7) / 8 →
      s.agenda = .mapped addr width write data :: ts →
      step s = .fault (.raised .width { s with agenda := ts, faults := [.width] }))

/-- R63: an access of any other width is refused with F_WIDTH and has no other effect. -/
def Obligations.WideAccessFaults : Prop :=
  ∀ (s : State) (width : Nat) (ts : List Turn), s.faults = [] → width ≠ 8 →
    (∀ w : AccessWord, s.agenda = .access width w :: ts →
      step s = .fault (.raised .width { s with agenda := ts, faults := [.width] })) ∧
    (∀ (off : Offset) (write : Bool) (data : Byte),
      s.agenda = .mapped (s.par.base + off.toNat) width write data :: ts →
      step s = .fault (.raised .width { s with agenda := ts, faults := [.width] }))

/-- R200, R214, R215: the host executes the statement at `hpc`; no statement there is F_HPC; halted it has no step, and
that its turn then answers the state unchanged is the model's choice: notes/assumptions/3.md. -/
def Obligations.StepRunsHarnessStatement : Prop :=
  ∀ (s : State) (spurious : Bool) (ts : List Turn), s.faults = [] → s.agenda = .host spurious :: ts →
    (s.halted = true → step s = .next { s with agenda := ts }) ∧
    (∀ st, s.halted = false → s.prog[s.hpc]? = some st → step s = exec (st.toInstr spurious) { s with agenda := ts }) ∧
    (s.halted = false → s.prog.length ≤ s.hpc →
      step s = .fault (.raised .hpc { s with agenda := ts, faults := [.hpc] }))

/-- R89, R120, R151: the bus and the producers execute the row that the state enables. Where they have no step, the bus
in the other phases, the producers with no line pulsed, their turn answers the state unchanged: the model's choice,
notes/assumptions/3.md and 21.md. -/
def Obligations.AgentTurnsRunEnabledRow : Prop :=
  ∀ (s : State) (ts : List Turn), s.faults = [] →
    (∀ k v, s.agenda = .bus k v :: ts →
      (s.ph = .addr → step s = exec (.busAddrAck k) { s with agenda := ts }) ∧
      (s.ph = .txbyte → step s = exec (.busDataAck k) { s with agenda := ts }) ∧
      (s.ph = .rxbyte → step s = exec (.busRxByte v) { s with agenda := ts }) ∧
      (s.ph = .idle ∨ s.ph = .load ∨ s.ph = .hold → step s = .next { s with agenda := ts })) ∧
    (∀ m, s.agenda = .producer m :: ts → m ≠ 0 → step s = exec (.prodEvIn m) { s with agenda := ts }) ∧
    (s.agenda = .producer 0 :: ts → step s = .next { s with agenda := ts })

/-- R8: a fault adds its code to FAULT and changes nothing else, but that a step has used its turn up; the state is not
final; no agent steps afterwards, whether its turn comes from the schedule or from the free value. How a turn is used up
(third clause) is the model's choice, notes/assumptions/1.md; that a turn after a fault answers `refused` (fourth clause)
is the model's reading of R8, notes/assumptions/7.md. -/
def Obligations.FaultEndsTheRun : Prop :=
  (∀ (i : Instr) (s : State) (f : Fault), exec i s = .fault f →
    ∃ c t, f = .raised c t ∧ t = { s with faults := t.faults } ∧ (∀ d, d ∈ t.faults ↔ d = c ∨ d ∈ s.faults) ∧
      t.isFinal = false) ∧
  (∀ (s : State) (f : Fault), step s = .fault f →
    ∃ c t, f = .raised c t ∧ t = (nextTurn s).2.recordFault c ∧ (∀ d, d ∈ t.faults ↔ d = c ∨ d ∈ s.faults) ∧
      t.isFinal = false) ∧
  (∀ s : State, (nextTurn s).2 = { s with
    agenda := s.agenda.tail, turns := if s.agenda = [] then s.turns + 1 else s.turns }) ∧
  (∀ s : State, s.faults ≠ [] → (nextTurn s).1 ≠ .powerOn → step s = .refused .afterFault)

/-- R220, R221: every instruction answers a state or a fault, in every state, never the outcome `refused`. That a STEP row
outside its enabling condition answers the state is the model's choice: notes/assumptions/3.md. -/
def Obligations.NoInstructionIsRefused : Prop :=
  ∀ (i : Instr) (s : State) (r : Refusal), exec i s ≠ .refused r

/-- R260, R49: power-on reset puts the block's whole state at the reset values, whatever it was, a recorded fault too; the
host's side stays (the model's reading: notes/assumptions/8.md). -/
def Obligations.PowerOnResetsTheBlock : Prop :=
  ∀ (s : State) (ts : List Turn), s.agenda = .powerOn :: ts →
    step s = .next { State.reset with
      rdata := s.rdata, mem := s.mem, h := s.h, hpc := s.hpc, log := s.log, halted := s.halted, prog := s.prog,
      par := s.par, agenda := ts, turns := s.turns }

/-- R49: the reset value of every piece of the block's state. That the harness has at reset the values R200 gives for the
start of a program (hpc, LOG, halted, h0 to h7) is the model's reading: notes/assumptions/12.md. -/
def Obligations.ResetStateHasTheSpecsValues : Prop :=
  State.reset.statusByte = 0x00 ∧ State.reset.saddr = 0x00 ∧ State.reset.len = 0x00 ∧ State.reset.bufl = 0x00 ∧
  State.reset.bufh = 0x00 ∧ State.reset.regidx = 0x00 ∧ State.reset.rxdata = 0x00 ∧ State.reset.clkdiv = 0x00 ∧
  State.reset.cfg.toByte = 0x00 ∧ State.reset.ifg.toByte = 0x00 ∧ State.reset.evbits = 0x0 ∧
  State.reset.txn = ⟨.none, .w, 0, .write, .mem, 0, 0, 0, 0⟩ ∧ State.reset.ph = .idle ∧
  State.reset.txshift = 0x00 ∧ State.reset.rxshift = 0x00 ∧ State.reset.trace = [] ∧ State.reset.faults = [] ∧
  State.reset.hpc = 0 ∧ State.reset.log = [] ∧ State.reset.halted = false ∧ ∀ n, State.reset.readH n = 0x00

/-! ## Commands -/

/-- R101: INIT sets CFG to 0xF7 and CLKDIV to P_CLKDIV, is refused while BUSY, and is idempotent. -/
def Obligations.InitConfigures : Prop :=
  decodeWord 0x1001 = .i2cInit ∧ ∀ s : State,
    (s.busy = false →
      exec .i2cInit s =
        .next { s with cfg := ⟨true, true, true, true, true, true, true⟩, clkdiv := s.par.pClkdiv }) ∧
    Cfg.toByte ⟨true, true, true, true, true, true, true⟩ = 0xF7 ∧
    (s.busy = true → exec .i2cInit s = .fault (.raised .cmdBusy (s.recordFault .cmdBusy))) ∧
    (∀ t, exec .i2cInit s = .next t → exec .i2cInit t = .next t)

/-- R102: WRITE, its four faults in their order, and the transaction it starts. -/
def Obligations.WriteCommandStartsTransaction : Prop :=
  decodeWord 0x1002 = .i2cWrite ∧ ∀ s : State,
    (s.busy = true → exec .i2cWrite s = .fault (.raised .cmdBusy (s.recordFault .cmdBusy))) ∧
    (s.busy = false → s.cfg.mst = false → exec .i2cWrite s = .fault (.raised .notInit (s.recordFault .notInit))) ∧
    (s.busy = false → s.cfg.mst = true → s.len = 0 →
      exec .i2cWrite s = .fault (.raised .lenZero (s.recordFault .lenZero))) ∧
    (s.busy = false → s.cfg.mst = true → s.len ≠ 0 → 0x10000 < (s.bufh ++ s.bufl).toNat + s.len.toNat →
      exec .i2cWrite s = .fault (.raised .bufRange (s.recordFault .bufRange))) ∧
    (s.busy = false → s.cfg.mst = true → s.len ≠ 0 → (s.bufh ++ s.bufl).toNat + s.len.toNat ≤ 0x10000 →
      exec .i2cWrite s = .next { s with
        txn := { cmd := .write, stage := .w, addr := s.saddr, dir := .write, src := .mem,
                 buf := s.bufh ++ s.bufl, reg := 0x00, len := s.len, cursor := 0 },
        done := false, busy := true, cause := .none, nackseen := false, trace := s.trace ++ [.s], ph := .addr })

/-- R103: READREG, its two faults, and the transaction it starts in stage W. -/
def Obligations.ReadregCommandStartsStageW : Prop :=
  decodeWord 0x1003 = .i2cReadreg ∧ ∀ s : State,
    (s.busy = true → exec .i2cReadreg s = .fault (.raised .cmdBusy (s.recordFault .cmdBusy))) ∧
    (s.busy = false → s.cfg.mst = false → exec .i2cReadreg s = .fault (.raised .notInit (s.recordFault .notInit))) ∧
    (s.busy = false → s.cfg.mst = true →
      exec .i2cReadreg s = .next { s with
        txn := { cmd := .readreg, stage := .w, addr := s.saddr, dir := .write, src := .reg,
                 buf := 0x0000, reg := s.regidx, len := 1, cursor := 0 },
        done := false, busy := true, cause := .none, nackseen := false, trace := s.trace ++ [.s], ph := .addr })

/-- R83: every write to CTRL with DATA 0x04 to 0xFF is refused, in every state, before any other check of a command. -/
def Obligations.ReservedCommandsFault : Prop :=
  ∀ s : State,
    (∀ v : Byte, 0x04 ≤ v →
      exec (decodeWord (0x1000 ||| v.setWidth 13)) s = .fault (.raised .reservedCmd (s.recordFault .reservedCmd))) ∧
    (∀ d, exec (.ctrlReserved0407 d) s = .fault (.raised .reservedCmd (s.recordFault .reservedCmd))) ∧
    (∀ d, exec (.ctrlReserved080F d) s = .fault (.raised .reservedCmd (s.recordFault .reservedCmd))) ∧
    (∀ d, exec (.ctrlReserved101F d) s = .fault (.raised .reservedCmd (s.recordFault .reservedCmd))) ∧
    (∀ d, exec (.ctrlReserved203F d) s = .fault (.raised .reservedCmd (s.recordFault .reservedCmd))) ∧
    (∀ d, exec (.ctrlReserved407F d) s = .fault (.raised .reservedCmd (s.recordFault .reservedCmd))) ∧
    (∀ d, exec (.ctrlReserved80FF d) s = .fault (.raised .reservedCmd (s.recordFault .reservedCmd)))

/-- R84: any access, read or write, to offset 0xE or 0xF is refused and changes nothing else. -/
def Obligations.ReservedOffsetsFault : Prop :=
  ∀ s : State,
    (∀ (write : Bool) (off : Offset) (x : Byte), 0xE ≤ off →
      exec (decodeWord (accessWord (BitVec.ofBool write ++ off) x)) s =
        .fault (.raised .reservedOff (s.recordFault .reservedOff))) ∧
    (∀ write odd x,
      exec (.offReserved write odd x) s = .fault (.raised .reservedOff (s.recordFault .reservedOff)))

/-! ## Plain register accesses -/

/-- R170 to R174: writes of the programming registers, in every state; SADDR drops bit 7. -/
def Obligations.ProgrammingWritesStore : Prop :=
  ∀ (s : State) (v : Byte),
    exec (.wrSaddr v) s = .next { s with saddr := v.extractLsb' 0 7 } ∧
    exec (.wrLen v) s = .next { s with len := v } ∧
    exec (.wrBufl v) s = .next { s with bufl := v } ∧
    exec (.wrBufh v) s = .next { s with bufh := v } ∧
    exec (.wrRegidx v) s = .next { s with regidx := v } ∧
    decodeWord (0x1200 ||| v.setWidth 13) = .wrSaddr v ∧
    decodeWord (0x1300 ||| v.setWidth 13) = .wrLen v ∧
    decodeWord (0x1400 ||| v.setWidth 13) = .wrBufl v ∧
    decodeWord (0x1500 ||| v.setWidth 13) = .wrBufh v ∧
    decodeWord (0x1600 ||| v.setWidth 13) = .wrRegidx v

/-- R100, R187 to R193: I2C.NOP and a write to a read-only offset have no effect, in any state. -/
def Obligations.NopAndReadOnlyWritesHaveNoEffect : Prop :=
  ∀ (s : State) (v : Byte),
    exec .i2cNop s = .next s ∧
    exec (.wrStatus v) s = .next s ∧ exec (.wrRxdata v) s = .next s ∧ exec (.wrClkdiv v) s = .next s ∧
    exec (.wrCfg v) s = .next s ∧ exec (.wrIfg v) s = .next s ∧ exec (.wrEvbits v) s = .next s ∧
    exec (.wrEvtake v) s = .next s ∧
    decodeWord 0x1000 = .i2cNop ∧ decodeWord (0x1100 ||| v.setWidth 13) = .wrStatus v ∧
    decodeWord (0x1700 ||| v.setWidth 13) = .wrRxdata v ∧
    decodeWord (0x1800 ||| v.setWidth 13) = .wrClkdiv v ∧
    decodeWord (0x1900 ||| v.setWidth 13) = .wrCfg v ∧
    decodeWord (0x1A00 ||| v.setWidth 13) = .wrIfg v ∧
    decodeWord (0x1B00 ||| v.setWidth 13) = .wrEvbits v ∧
    decodeWord (0x1D00 ||| v.setWidth 13) = .wrEvtake v

/-- R175, R178 to R183, R186: these reads return the register, or 0x00, and change nothing but the returned byte. -/
def Obligations.PlainReadsReturnTheRegister : Prop :=
  ∀ (s : State) (x : Byte),
    exec (.rdCtrl x) s = .next { s with rdata := 0x00 } ∧
    exec (.rdLen x) s = .next { s with rdata := s.len } ∧
    exec (.rdBufl x) s = .next { s with rdata := s.bufl } ∧
    exec (.rdBufh x) s = .next { s with rdata := s.bufh } ∧
    exec (.rdRegidx x) s = .next { s with rdata := s.regidx } ∧
    exec (.rdRxdata x) s = .next { s with rdata := s.rxdata } ∧
    exec (.rdClkdiv x) s = .next { s with rdata := s.clkdiv } ∧
    exec (.rdEvset x) s = .next { s with rdata := 0x00 } ∧
    decodeWord 0x0000 = .rdCtrl 0x00 ∧ decodeWord 0x0300 = .rdLen 0x00 ∧ decodeWord 0x0400 = .rdBufl 0x00 ∧
    decodeWord 0x0500 = .rdBufh 0x00 ∧ decodeWord 0x0600 = .rdRegidx 0x00 ∧ decodeWord 0x0700 = .rdRxdata 0x00 ∧
    decodeWord 0x0800 = .rdClkdiv 0x00 ∧ decodeWord 0x0C00 = .rdEvset 0x00

/-- R154, R177, R184, R185: the reads of registers with unimplemented bits, bit by bit; those bits read 0. -/
def Obligations.FieldReadsReturnTheBits : Prop :=
  ∀ (s : State) (x : Byte),
    (∃ b : Byte, exec (.rdSaddr x) s = .next { s with rdata := b } ∧
      b.getLsbD 7 = false ∧ b.extractLsb' 0 7 = s.saddr) ∧
    (∃ b : Byte, exec (.rdCfg x) s = .next { s with rdata := b } ∧
      b.getLsbD 0 = s.cfg.mst ∧ b.getLsbD 1 = s.cfg.a7 ∧ b.getLsbD 2 = s.cfg.astp ∧ b.getLsbD 3 = false ∧
      b.getLsbD 4 = s.cfg.ieRx ∧ b.getLsbD 5 = s.cfg.ieTx ∧ b.getLsbD 6 = s.cfg.ieStp ∧
      b.getLsbD 7 = s.cfg.ieNack) ∧
    (∃ b : Byte, exec (.rdIfg x) s = .next { s with rdata := b } ∧
      b.getLsbD 0 = s.ifg.rxif ∧ b.getLsbD 1 = s.ifg.txif ∧ b.getLsbD 2 = s.ifg.stpif ∧ b.getLsbD 3 = s.ifg.nackif ∧
      b.extractLsb' 4 4 = 0) ∧
    (∃ b : Byte, exec (.rdEvbits x) s = .next { s with rdata := b } ∧
      b.extractLsb' 0 4 = s.evbits ∧ b.extractLsb' 4 4 = 0) ∧
    decodeWord 0x0200 = .rdSaddr 0x00 ∧ decodeWord 0x0900 = .rdCfg 0x00 ∧ decodeWord 0x0A00 = .rdIfg 0x00 ∧
    decodeWord 0x0B00 = .rdEvbits 0x00

/-- R176, R22, R27: RD.STATUS, bit by bit; EVPEND is computed from EVBITS; nothing but the returned byte changes. -/
def Obligations.StatusReadComposesTheFields : Prop :=
  decodeWord 0x0100 = .rdStatus 0x00 ∧ ∀ (s : State) (x : Byte),
    ∃ b : Byte, exec (.rdStatus x) s = .next { s with rdata := b } ∧
      b.getLsbD 0 = s.done ∧ b.getLsbD 1 = s.busy ∧
      (b.extractLsb' 2 2 = 0b00 ↔ s.cause = .none) ∧ (b.extractLsb' 2 2 = 0b01 ↔ s.cause = .stop) ∧
      (b.extractLsb' 2 2 = 0b10 ↔ s.cause = .nack) ∧
      b.getLsbD 4 = s.nackseen ∧ (b.getLsbD 5 = true ↔ s.evbits ≠ 0) ∧ b.extractLsb' 6 2 = 0

/-- R66: every read but EVTAKE's is free of side effects, and a second read returns the same value. -/
def Obligations.ReadsHaveNoSideEffect : Prop :=
  ∀ (off : Offset) (x : Byte) (s : State), off ≤ 0xC →
    ∃ t, exec (decodeWord (accessWord (0#1 ++ off) x)) s = .next t ∧ t = { s with rdata := t.rdata } ∧
      exec (decodeWord (accessWord (0#1 ++ off) x)) t = .next t

/-! ## EventChannel -/

/-- R151, R152: posts OR their mask into EVBITS, in every state; the host's byte is cut to its low four bits; a producer's
post makes EVPEND 1. A post of both in one clock stands as two posts one after the other, whose result is the union: the
model's choice, notes/assumptions/22.md. -/
def Obligations.PostsOrIntoEventBits : Prop :=
  ∀ (s : State) (v : Byte) (m : BitVec 4),
    exec (.evPost v) s = .next { s with evbits := s.evbits ||| v.extractLsb' 0 4 } ∧
    exec (.prodEvIn m) s = .next { s with evbits := s.evbits ||| m } ∧
    decodeWord (0x1C00 ||| v.setWidth 13) = .evPost v ∧
    (m ≠ 0 → ∀ t, exec (.prodEvIn m) s = .next t → t.statusByte.getLsbD 5 = true) ∧
    (∃ t, exec (.prodEvIn m) s = .next t ∧
      exec (.evPost v) t = .next { s with evbits := s.evbits ||| (m ||| v.extractLsb' 0 4) })

/-- R153: a take returns and clears the highest pending event, and returns 0x00 when there is none. -/
def Obligations.TakeReturnsTheHighestEvent : Prop :=
  decodeWord 0x0D00 = .evTake 0x00 ∧ ∀ (s : State) (x : Byte),
    (s.evbits = 0 → exec (.evTake x) s = .next { s with rdata := 0x00 }) ∧
    (∀ k : Fin 4, s.evbits.getLsbD k.val = true → (∀ j : Fin 4, k < j → s.evbits.getLsbD j.val = false) →
      exec (.evTake x) s = .next { s with
        rdata := 0x80 ||| BitVec.ofNat 8 k.val, evbits := s.evbits &&& ~~~ (1#4 <<< k.val) })

/-- R155: posts of one event kind coalesce; one take of the kind clears it. -/
def Obligations.PostsOfOneKindCoalesce : Prop :=
  ∀ (s t u : State) (v x : Byte) (k : Fin 4),
    (exec (.evPost v) s = .next t → exec (.evPost v) t = .next t) ∧
    (∀ m, exec (.prodEvIn m) s = .next t → exec (.prodEvIn m) t = .next t) ∧
    (exec (.evTake x) t = .next u → u.rdata = 0x80 ||| BitVec.ofNat 8 k.val → u.evbits.getLsbD k.val = false)

/-- R157: a take and a post of one clock are the take and then the post, so a post is never lost; the other order is
admitted too. -/
def Obligations.TakeThenPostKeepsThePost : Prop :=
  ∀ (s : State) (m : BitVec 4) (ts : List Turn), s.faults = [] → m ≠ 0 →
    (s.agenda = takeThenPost m ++ ts →
      Host.Core.run Sys2Proof.core 2 s = .next { s with
        agenda := ts, rdata := takenByte s.evbits, evbits := takenRest s.evbits ||| m }) ∧
    (s.agenda = .producer m :: .access 8 0x0D00 :: ts →
      Host.Core.run Sys2Proof.core 2 s = .next { s with
        agenda := ts, rdata := takenByte (s.evbits ||| m), evbits := takenRest (s.evbits ||| m) })

/-- R150, R153: takes with no post between them return falling codes and empty EVBITS within four. -/
def Obligations.DrainFallsInPriority : Prop :=
  ∀ (s t u v w : State) (x : Byte),
    exec (.evTake x) s = .next t → exec (.evTake x) t = .next u → exec (.evTake x) u = .next v →
    exec (.evTake x) v = .next w →
    (t.rdata = 0x00 ∨ u.rdata < t.rdata) ∧ (t.rdata = 0x00 → s.evbits = 0) ∧ w.evbits = 0

/-- R159: no BusEngine row reads or writes EVBITS; an EventChannel row reads and writes nothing else but the returned
byte. -/
def Obligations.UnitsShareNoState : Prop :=
  (∀ (i : Instr) (s : State) (e : BitVec 4), i.isBusEngine = true →
    exec i { s with evbits := e } = withEventBits e (exec i s)) ∧
  (∀ (i : Instr) (s t : State), i.isBusEngine = true → exec i s = .next t → t.evbits = s.evbits) ∧
  (∀ x v m, ∀ i ∈ [Instr.evTake x, .evPost v, .rdEvbits x, .prodEvIn m, .rdEvset x, .wrEvbits v, .wrEvtake v],
    ∃ (f : BitVec 4 → BitVec 4) (g : BitVec 4 → Byte → Byte), ∀ s : State,
      exec i s = .next { s with evbits := f s.evbits, rdata := g s.evbits s.rdata })

/-! ## The bus -/

/-- R122, R87: the slave's answer to the address byte. -/
def Obligations.AddressAnswerMovesThePhase : Prop :=
  ∀ s : State, s.ph = .addr →
    s.txn.addressByte.toNat = 2 * s.txn.addr.toNat + (if s.txn.dir = .read then 1 else 0) ∧
    exec (.busAddrAck false) s = .next { s with
      trace := s.trace ++ [.a s.txn.addressByte false, .p], ifg := { s.ifg with nackif := true }, ph := .hold } ∧
    (s.txn.dir = .write → exec (.busAddrAck true) s = .next { s with
      trace := s.trace ++ [.a s.txn.addressByte true], ifg := { s.ifg with txif := true }, ph := .load }) ∧
    (s.txn.dir = .read → exec (.busAddrAck true) s = .next { s with
      trace := s.trace ++ [.a s.txn.addressByte true], ph := .rxbyte })

/-- R123: the slave's answer to a data byte; the auto-STOP at `cursor = len`. -/
def Obligations.DataAnswerMovesThePhase : Prop :=
  ∀ s : State, s.ph = .txbyte →
    exec (.busDataAck false) s = .next { s with
      trace := s.trace ++ [.d s.txshift false, .p], ifg := { s.ifg with nackif := true }, ph := .hold } ∧
    (s.txn.cursor < s.txn.len → exec (.busDataAck true) s = .next { s with
      trace := s.trace ++ [.d s.txshift true], ifg := { s.ifg with txif := true }, ph := .load }) ∧
    (s.txn.len ≤ s.txn.cursor → exec (.busDataAck true) s = .next { s with
      trace := s.trace ++ [.d s.txshift true, .p], ifg := { s.ifg with stpif := true }, ph := .hold })

/-- R124: the one byte of a read, the STOP, and both flags. -/
def Obligations.ReceivedByteRaisesBothFlags : Prop :=
  ∀ (s : State) (v : Byte), s.ph = .rxbyte →
    exec (.busRxByte v) s = .next { s with
      trace := s.trace ++ [.r v, .p], rxshift := v, ifg := { s.ifg with rxif := true, stpif := true }, ph := .hold }

/-! ## The engine -/

/-- R125: the engine has a step exactly when a flag is pending and enabled, and then services the first in the order RXIF,
TXIF, NACKIF, STPIF. With none it has no step; that its turn then answers the state unchanged is the model's choice:
notes/assumptions/3.md. -/
def Obligations.EngineServicesFlagsInOrder : Prop :=
  ∀ (s : State) (ts : List Turn), s.faults = [] → s.agenda = .engine :: ts →
    (s.selectedFlag = some .rx ↔ (s.ifg.rxif && s.cfg.ieRx) = true) ∧
    (s.selectedFlag = some .tx ↔ (s.ifg.txif && s.cfg.ieTx) = true ∧ (s.ifg.rxif && s.cfg.ieRx) = false) ∧
    (s.selectedFlag = some .nack ↔ (s.ifg.nackif && s.cfg.ieNack) = true ∧ (s.ifg.rxif && s.cfg.ieRx) = false ∧
      (s.ifg.txif && s.cfg.ieTx) = false) ∧
    (s.selectedFlag = some .stop ↔ (s.ifg.stpif && s.cfg.ieStp) = true ∧ (s.ifg.rxif && s.cfg.ieRx) = false ∧
      (s.ifg.txif && s.cfg.ieTx) = false ∧ (s.ifg.nackif && s.cfg.ieNack) = false) ∧
    (s.selectedFlag = some .rx → step s = exec .engSvcRx { s with agenda := ts }) ∧
    (s.selectedFlag = some .tx → step s = exec .engSvcTx { s with agenda := ts }) ∧
    (s.selectedFlag = some .nack → step s = exec .engSvcNack { s with agenda := ts }) ∧
    (s.selectedFlag = some .stop → step s = exec .engSvcStop { s with agenda := ts }) ∧
    (s.selectedFlag = none → step s = .next { s with agenda := ts })

/-- R126: the receive service. -/
def Obligations.ReceiveServiceFillsRxdata : Prop :=
  ∀ s : State, s.selectedFlag = some .rx →
    exec .engSvcRx s = .next { s with rxdata := s.rxshift, ifg := { s.ifg with rxif := false } }

/-- R127: the transmit service loads `buffer[cursor]` or `T.reg`, and faults outside MEMWIN. -/
def Obligations.TransmitServiceLoadsTheByte : Prop :=
  ∀ s : State, s.selectedFlag = some .tx →
    (s.txn.src = .mem → s.par.inWindow (s.txn.buf + s.txn.cursor.setWidth 16) = true →
      exec .engSvcTx s = .next { s with
        txshift := s.byteAt (s.txn.buf + s.txn.cursor.setWidth 16),
        txn := { s.txn with cursor := s.txn.cursor + 1 }, ifg := { s.ifg with txif := false }, ph := .txbyte }) ∧
    (s.txn.src = .mem → s.par.inWindow (s.txn.buf + s.txn.cursor.setWidth 16) = false →
      exec .engSvcTx s = .fault (.raised .mem (s.recordFault .mem))) ∧
    (s.txn.src = .reg →
      exec .engSvcTx s = .next { s with
        txshift := s.txn.reg,
        txn := { s.txn with cursor := s.txn.cursor + 1 }, ifg := { s.ifg with txif := false }, ph := .txbyte })

/-- R128, R130: the NACK service completes the stage; stage W of a READREG goes on to stage R, all else is finished. -/
def Obligations.NackServiceCompletes : Prop :=
  ∀ s : State, s.selectedFlag = some .nack →
    (s.txn.cmd = .readreg → s.txn.stage = .w →
      exec .engSvcNack s = .next { s with
        ifg := { s.ifg with nackif := false, stpif := false }, nackseen := true,
        txn := { s.txn with stage := .r, dir := .read, len := 1, cursor := 0 },
        trace := s.trace ++ [.s], ph := .addr }) ∧
    (s.txn.cmd ≠ .readreg ∨ s.txn.stage = .r →
      exec .engSvcNack s = .next { s with
        ifg := { s.ifg with nackif := false, stpif := false }, nackseen := true,
        cause := .nack, done := true, busy := false, txn := ⟨.none, .w, 0, .write, .mem, 0, 0, 0, 0⟩, ph := .idle })

/-- R129, R130: the STOP service completes the stage. -/
def Obligations.StopServiceCompletes : Prop :=
  ∀ s : State, s.selectedFlag = some .stop →
    (s.txn.cmd = .readreg → s.txn.stage = .w →
      exec .engSvcStop s = .next { s with
        ifg := { s.ifg with stpif := false },
        txn := { s.txn with stage := .r, dir := .read, len := 1, cursor := 0 },
        trace := s.trace ++ [.s], ph := .addr }) ∧
    (s.txn.cmd ≠ .readreg ∨ s.txn.stage = .r →
      exec .engSvcStop s = .next { s with
        ifg := { s.ifg with stpif := false },
        cause := .stop, done := true, busy := false, txn := ⟨.none, .w, 0, .write, .mem, 0, 0, 0, 0⟩, ph := .idle })

/-! ## The host's waits and the harness -/

/-- R201: WAITDONE proceeds on the level of DONE, and holds while it is 0. A host that holds has no step (R9); that its turn
answers the state unchanged is the model's choice: notes/assumptions/3.md. -/
def Obligations.WaitdoneWaitsOnTheLevel : Prop :=
  ∀ s : State,
    (s.done = true → exec .hostWaitdone s = .next { s with hpc := s.hpc + 1 }) ∧
    (s.done = false → exec .hostWaitdone s = .next s)

/-- R202: SLEEP never holds while an event is pending; with none it holds, or proceeds by the draw. A host that holds has no
step (R9); that its turn answers the state unchanged is the model's choice: notes/assumptions/3.md. -/
def Obligations.SleepWaitsOnEvents : Prop :=
  ∀ (s : State) (spurious : Bool),
    (s.evbits ≠ 0 → exec (.hostSleep spurious) s = .next { s with hpc := s.hpc + 1 }) ∧
    (s.evbits = 0 → exec (.hostSleep true) s = .next { s with hpc := s.hpc + 1 }) ∧
    (s.evbits = 0 → exec (.hostSleep false) s = .next s)

/-- R203, R207, R208, R213, R214: the statements on harness registers, `log` and `halt`. -/
def Obligations.RegisterStatementsCompute : Prop :=
  ∀ (s : State) (n : HReg) (imm : Byte),
    exec (.harnessLi n imm) s = .next { s with h := s.h.set n imm, hpc := s.hpc + 1 } ∧
    exec (.harnessAddi n imm) s =
      .next { s with h := s.h.set n (BitVec.ofNat 8 ((s.h[n].toNat + imm.toNat) % 256)), hpc := s.hpc + 1 } ∧
    exec (.harnessAndi n imm) s = .next { s with h := s.h.set n (s.h[n] &&& imm), hpc := s.hpc + 1 } ∧
    exec (.harnessLog n) s = .next { s with log := s.log ++ [s.h[n]], hpc := s.hpc + 1 } ∧
    exec .harnessHalt s = .next { s with halted := true }

/-- R209 to R212: the branches and the jump. -/
def Obligations.BranchesMoveHpc : Prop :=
  ∀ (s : State) (n : HReg) (imm : Byte) (l : Nat),
    exec (.harnessBeqz n l) s = .next { s with hpc := if s.h[n] = 0 then l else s.hpc + 1 } ∧
    exec (.harnessBnez n l) s = .next { s with hpc := if s.h[n] ≠ 0 then l else s.hpc + 1 } ∧
    exec (.harnessBeqi n imm l) s = .next { s with hpc := if s.h[n] = imm then l else s.hpc + 1 } ∧
    exec (.harnessJmp l) s = .next { s with hpc := l }

/-- R204, R205: `wr` and `wrr` make the host write access, then advance; its fault is theirs; at the offsets that hold no
command they complete in every state. -/
def Obligations.WriteStatementsMakeTheAccess : Prop :=
  ∀ (s : State) (off : Offset) (v : Byte) (n : HReg),
    (∀ t, exec (decodeWord (accessWord (1#1 ++ off) v)) s = .next t →
      exec (.harnessWr off v) s = .next { t with hpc := t.hpc + 1 }) ∧
    (∀ f, exec (decodeWord (accessWord (1#1 ++ off) v)) s = .fault f → exec (.harnessWr off v) s = .fault f) ∧
    exec (.harnessWrr off n) s = exec (.harnessWr off s.h[n]) s ∧
    (1 ≤ off → off ≤ 0xD → ∃ t, exec (.harnessWr off v) s = .next t ∧ t.hpc = s.hpc + 1 ∧ t.h = s.h) ∧
    (1 ≤ off → off ≤ 0xD → ∃ t, exec (.harnessWrr off n) s = .next t ∧ t.hpc = s.hpc + 1 ∧ t.h = s.h)

/-- R206: `rd` makes the host read access, its side effect too, writes the returned byte to `hN` and advances; a refused
read writes nothing; at offsets 0x0 to 0xD it completes in every state. -/
def Obligations.ReadStatementMakesTheAccess : Prop :=
  ∀ (s : State) (n : HReg) (off : Offset),
    (∀ t, exec (decodeWord (accessWord (0#1 ++ off) 0x00)) s = .next t →
      exec (.harnessRd n off) s = .next { t with h := t.h.set n t.rdata, hpc := t.hpc + 1 }) ∧
    (∀ f, exec (decodeWord (accessWord (0#1 ++ off) 0x00)) s = .fault f → exec (.harnessRd n off) s = .fault f) ∧
    (off ≤ 0xD → ∃ t, exec (.harnessRd n off) s = .next t ∧ t.hpc = s.hpc + 1 ∧ t.h = s.h.set n t.rdata)

/-! ## The whole machine -/

/-- R6, R67: no instruction writes host memory; none changes the parameters, the program or the schedule. -/
def Obligations.HostMemoryIsNeverWritten : Prop :=
  ∀ (i : Instr) (s t : State), exec i s = .next t →
    (∀ a : HostAddr, t.byteAt a = s.byteAt a) ∧ t.par = s.par ∧ t.prog = s.prog ∧ t.agenda = s.agenda ∧
      t.turns = s.turns

/-- R32: only the receive service writes RXDATA. -/
def Obligations.OnlyReceiveServiceWritesRxdata : Prop :=
  ∀ (i : Instr) (s t : State), exec i s = .next t → i ≠ .engSvcRx → t.rxdata = s.rxdata

/-- R34, R33: only INIT writes CFG and CLKDIV, made by itself or by a `wr` or `wrr` of 0x01 to CTRL. -/
def Obligations.OnlyInitWritesConfiguration : Prop :=
  ∀ (i : Instr) (s t : State), exec i s = .next t → t.cfg = s.cfg ∧ t.clkdiv = s.clkdiv ∨
    t.cfg.toByte = 0xF7 ∧ t.clkdiv = s.par.pClkdiv ∧
      (i = .i2cInit ∨ i = .harnessWr 0x0 0x01 ∨ ∃ n, i = .harnessWrr 0x0 n ∧ s.h[n] = 0x01)

/-- R44: TRACE only grows, at its end; a host access adds nothing but the START of a command. -/
def Obligations.TraceOnlyGrows : Prop :=
  ∀ (i : Instr) (s t : State), exec i s = .next t →
    (∃ syms, t.trace = s.trace ++ syms) ∧
    (i.agent = .host → t.trace = s.trace ∨ s.busy = false ∧ t.trace = s.trace ++ [.s])

/-- R28, R40, D12: while a transaction is outstanding nothing the host or a producer does touches it, the bus or its
completion. -/
def Obligations.HostNeverDisturbsATransaction : Prop :=
  ∀ (i : Instr) (s t : State), exec i s = .next t → s.busy = true → (i.agent = .host ∨ i.agent = .producers) →
    t.txn = s.txn ∧ t.ph = s.ph ∧ t.ifg = s.ifg ∧ t.cfg = s.cfg ∧ t.txshift = s.txshift ∧ t.rxshift = s.rxshift ∧
      t.rxdata = s.rxdata ∧ t.trace = s.trace ∧ t.busy = true ∧ t.done = s.done ∧ t.cause = s.cause ∧
      t.nackseen = s.nackseen

/-- R73: a store to `buffer[cursor]` before the ENG.SVC_TX that loads it is what the engine sends. -/
def Obligations.LateStoreIsSent : Prop :=
  ∀ (s : State) (b : Byte) (ts : List Turn), Inv s → s.ph = .load → s.txn.cmd = .write →
    s.par.inWindow s.txn.byteAddr = true → s.agenda = .store s.txn.byteAddr b :: .engine :: ts →
    ∃ t, Host.Core.run Sys2Proof.core 2 s = .next t ∧ t.txshift = b ∧ t.ph = .txbyte ∧
      t.txn.cursor = s.txn.cursor + 1 ∧ ∀ a : HostAddr, a ≠ s.txn.byteAddr → t.byteAt a = s.byteAt a

/-- The invariant of R50 holds after reset. -/
def Obligations.ResetSatisfiesTheInvariant : Prop := Inv State.reset

/-- Every step keeps the invariant of R50, from every state that has it. -/
def Obligations.StepKeepsTheInvariant : Prop :=
  ∀ s t : State, Inv s → step s = .next t → Inv t

/-- R131, first row: a WRITE with every answer ACK puts `S A D … D P` on the bus, the buffer in ascending order, and
completes with stop. -/
def Obligations.AckedWriteSendsTheBuffer : Prop :=
  ∀ (s : State) (ts : List Turn), Inv s → s.busy = false → s.cfg = .afterInit → s.len ≠ 0 →
    (s.bufh ++ s.bufl).toNat + s.len.toNat ≤ 0x10000 → windowHolds s (s.bufh ++ s.bufl) s.len.toNat = true →
    s.agenda = .access 8 0x1002 :: (writeTurns s.len.toNat ++ ts) →
    ∃ t, Host.Core.run Sys2Proof.core (2 * s.len.toNat + 3) s = .next t ∧
      t.trace = s.trace ++ [.s, .a (s.saddr ++ 0#1) true] ++ dataSyms s (s.bufh ++ s.bufl) s.len.toNat ++ [.p] ∧
      t.done = true ∧ t.busy = false ∧ t.cause = .stop ∧ t.nackseen = false ∧ t.txn = .empty ∧ t.ph = .idle ∧
      t.ifg = .none ∧ t.rxdata = s.rxdata ∧ t.evbits = s.evbits ∧ t.agenda = ts

/-- R131, the other rows: a WRITE whose address, or whose data byte `j`, is answered NACK ends there with STOP and
completes with nack. -/
def Obligations.NackedWriteStopsThere : Prop :=
  ∀ (s : State) (ts : List Turn), Inv s → s.busy = false → s.cfg = .afterInit → s.len ≠ 0 →
    (s.bufh ++ s.bufl).toNat + s.len.toNat ≤ 0x10000 →
    (s.agenda = .access 8 0x1002 :: .bus false 0x00 :: .engine :: ts →
      ∃ t, Host.Core.run Sys2Proof.core 3 s = .next t ∧
        t.trace = s.trace ++ [.s, .a (s.saddr ++ 0#1) false, .p] ∧ t.done = true ∧ t.busy = false ∧ t.cause = .nack ∧
        t.nackseen = true ∧ t.txn = .empty ∧ t.ph = .idle ∧ t.txshift = s.txshift ∧ t.rxdata = s.rxdata ∧
        t.agenda = ts) ∧
    (∀ j : Nat, j < s.len.toNat → windowHolds s (s.bufh ++ s.bufl) (j + 1) = true →
      s.agenda = .access 8 0x1002 :: (writeNackTurns j ++ ts) →
      ∃ t, Host.Core.run Sys2Proof.core (2 * j + 5) s = .next t ∧
        t.trace = s.trace ++ [.s, .a (s.saddr ++ 0#1) true] ++ dataSyms s (s.bufh ++ s.bufl) j ++
          [.d (s.byteAt (s.bufh ++ s.bufl + BitVec.ofNat 16 j)) false, .p] ∧
        t.done = true ∧ t.busy = false ∧ t.cause = .nack ∧ t.nackseen = true ∧ t.txn = .empty ∧ t.ph = .idle ∧
        t.rxdata = s.rxdata ∧ t.agenda = ts)

/-- R132: a READREG runs stage R whatever stage W came to; RXDATA is the byte the slave sent, or the earlier byte where
the read address is answered NACK. -/
def Obligations.ReadregReturnsTheByte : Prop :=
  ∀ (s : State) (w : IndexWrite) (v : Byte) (ts : List Turn), Inv s → s.busy = false → s.cfg = .afterInit →
    (s.agenda = .access 8 0x1003 :: (w.turns ++ readTurns v ++ ts) →
      ∃ t, Host.Core.run Sys2Proof.core (w.turns.length + 5) s = .next t ∧
        t.trace = s.trace ++ w.syms s.saddr s.regidx ++ [.s, .a (s.saddr ++ 1#1) true, .r v, .p] ∧ t.rxdata = v ∧
        t.done = true ∧ t.busy = false ∧ t.cause = .stop ∧ t.nackseen = w.nacked ∧ t.txn = .empty ∧ t.ph = .idle ∧
        t.agenda = ts) ∧
    (s.agenda = .access 8 0x1003 :: (w.turns ++ readNackTurns ++ ts) →
      ∃ t, Host.Core.run Sys2Proof.core (w.turns.length + 3) s = .next t ∧
        t.trace = s.trace ++ w.syms s.saddr s.regidx ++ [.s, .a (s.saddr ++ 1#1) false, .p] ∧ t.rxdata = s.rxdata ∧
        t.done = true ∧ t.busy = false ∧ t.cause = .nack ∧ t.nackseen = true ∧ t.txn = .empty ∧ t.ph = .idle ∧
        t.agenda = ts)

/-- R133, R269: while the bus agent does not step, an outstanding transaction that waits for it never completes, however
the other agents step, and a command in that state is F_CMD_BUSY. -/
def Obligations.HungBusNeverCompletes : Prop :=
  ∀ (turns ts : List Turn) (s t : State), Inv s → s.ph.waitsForBus = true → s.agenda = turns ++ ts →
    (∀ x ∈ turns, x.canUnhang = false) → Host.Core.run Sys2Proof.core turns.length s = .next t →
    t.busy = true ∧ t.done = false ∧ t.ph = s.ph ∧ t.txn = s.txn ∧ t.trace = s.trace ∧
      exec .i2cInit t = .fault (.raised .cmdBusy (t.recordFault .cmdBusy)) ∧
      exec .i2cWrite t = .fault (.raised .cmdBusy (t.recordFault .cmdBusy)) ∧
      exec .i2cReadreg t = .fault (.raised .cmdBusy (t.recordFault .cmdBusy))

/-- R216: in a final state the host, the bus and the engine have no step (R214, R120, R125). That their turns answer the
state unchanged is the model's choice: notes/assumptions/3.md. -/
def Obligations.FinalStatesStay : Prop :=
  ∀ (s : State) (x : Turn) (ts : List Turn), Inv s → s.isFinal = true → s.agenda = x :: ts →
    ((∃ sp, x = .host sp) ∨ (∃ k v, x = .bus k v) ∨ x = .engine) → step s = .next { s with agenda := ts }

/-- R94: in every state of every run of a program built only of pseudo-instructions, under every schedule of all agents
with no host access outside the program, a statement at `hpc` that writes CTRL is there with BUSY = 0; and no such run
stops with F_CMD_BUSY. -/
def Obligations.PseudoProgramsAreNeverBusyFaults : Prop :=
  ∀ (ps : List Pseudo) (turns : List Turn) (s : State), Inv s → s.busy = false → s.hpc = 0 →
    s.prog = ps.flatMap Pseudo.expand → s.agenda = turns → (∀ x ∈ turns, x.isProgramRun = true) →
    ∀ k, k ≤ turns.length →
      (∀ after, Host.Core.run Sys2Proof.core k s ≠ .fault (.raised .cmdBusy after)) ∧
      (∀ (t : State) (st : Stmt), Host.Core.run Sys2Proof.core k s = .next t → t.prog[t.hpc]? = some st →
        st.writesCtrl = true → t.busy = false)

/-- R94 as an invariant: with `waitdone` after every statement that may start a transaction, every step keeps that a
program stands at that `waitdone` while BUSY, so it writes CTRL only with BUSY = 0 and is never refused as busy. The reset
state and the expansions of the pseudo-instructions are of that form. -/
def Obligations.StepKeepsTheProgramInvariant : Prop :=
  (∀ s : State, ProgramInv s → (nextTurn s).1.isProgramRun = true →
    (∀ t, step s = .next t → ProgramInv t) ∧
    (∀ after, step s ≠ .fault (.raised .cmdBusy after)) ∧
    (∀ st, s.prog[s.hpc]? = some st → st.writesCtrl = true → s.busy = false)) ∧
  (∀ ps : List Pseudo, commandsAreWaitedFor (ps.flatMap Pseudo.expand) = true) ∧
  ProgramInv State.reset
end

