-- ==== Sys2Proof/Laws/Decode.lean ====
section
/-! SUPPORT. The fields of an access word, and that a decoded word is a row of format ACCESS. -/

namespace Sys2Proof

/-- The high part of a concatenation. -/
theorem extract_high {m n : Nat} (a : BitVec m) (b : BitVec n) : (a ++ b).extractLsb' n m = a := by
  ext i hi
  simp [BitVec.getElem_extractLsb', BitVec.getLsbD_append, BitVec.getLsbD_eq_getElem, hi]

/-- The low part of a concatenation. -/
theorem extract_low {m n : Nat} (a : BitVec m) (b : BitVec n) : (a ++ b).extractLsb' 0 n = b := by
  ext i hi
  simp [BitVec.getElem_extractLsb', BitVec.getLsbD_append, BitVec.getLsbD_eq_getElem, hi]

@[simp] theorem rwOff_accessWord (c : BitVec 5) (v : Byte) : (accessWord c v).rwOff = c := extract_high c v

@[simp] theorem data_accessWord (c : BitVec 5) (v : Byte) : (accessWord c v).data = v := extract_low c v

/-- A word is its two fields. -/
theorem accessWord_fields (w : AccessWord) : accessWord w.rwOff w.data = w := by
  apply BitVec.eq_of_getLsbD_eq
  intro i hi
  have h : (accessWord w.rwOff w.data).getLsbD i =
      if i < 8 then w.data.getLsbD i else w.rwOff.getLsbD (i - 8) := BitVec.getLsbD_append ..
  rw [h]
  split
  · simp [AccessWord.data, *]
  · have h1 : i - 8 < 5 := by omega
    have h2 : 8 + (i - 8) = i := by omega
    simp [AccessWord.rwOff, h1, h2]

@[simp] theorem decodeWord_accessWord (c : BitVec 5) (v : Byte) : decodeWord (accessWord c v) = decodeFields c v := by
  simp [decodeWord]

/-- A word with DATA or'ed into a word of DATA 0 is the word of its two fields. -/
theorem accessWord_or (c : BitVec 5) (v : Byte) : (accessWord c 0x00 ||| v.setWidth 13) = accessWord c v := by
  apply BitVec.eq_of_getLsbD_eq
  intro i hi
  have h : ∀ u : Byte, (accessWord c u).getLsbD i = if i < 8 then u.getLsbD i else c.getLsbD (i - 8) :=
    fun u => BitVec.getLsbD_append ..
  rw [BitVec.getLsbD_or, h, h]
  split
  · simp [hi]
  · have hv : v.getLsbD i = false := BitVec.getLsbD_of_ge _ _ (by omega)
    simp [hv]

/-- What a word with DATA `v` in it decodes to. -/
theorem decodeWord_or {w : AccessWord} (c : BitVec 5) (v : Byte) (h : w = accessWord c 0x00) :
    decodeWord (w ||| v.setWidth 13) = decodeFields c v := by
  rw [h, accessWord_or, decodeWord_accessWord]

/-- Decoding the two bytes of a word is decoding the word. -/
@[simp] theorem decode_wordBytes (w : AccessWord) (rest : List Byte) :
    decode (wordBytes w ++ rest) = .instr (decodeWord w) rest := by
  have h : (0#3 ++ w.rwOff).extractLsb' 5 3 = 0 := by
    exact extract_high 0#3 w.rwOff
  have h' : (0#3 ++ w.rwOff).extractLsb' 0 5 = w.rwOff := by
    exact extract_low 0#3 w.rwOff
  simp [wordBytes, decode, decodeWord, h, h']

/-- A command byte selects a row of format ACCESS (R82, R83). -/
theorem decodeCommand_isAccess (v : Byte) : (decodeCommand v).isAccess = true := by
  unfold decodeCommand
  repeat' split
  all_goals rfl

/-- Every access word is a row of format ACCESS (R81, R90). -/
theorem decodeFields_isAccess (c : BitVec 5) (v : Byte) : (decodeFields c v).isAccess = true := by
  unfold decodeFields
  split <;> first | rfl | exact decodeCommand_isAccess v

theorem decodeWord_isAccess (w : AccessWord) : (decodeWord w).isAccess = true := decodeFields_isAccess _ _

end Sys2Proof
end

