-- ==== Sys2Proof/Laws/State.lean ====
section
/-! SUPPORT. One lemma for each field of each named update of the state, so that no proof unfolds an update. -/

namespace Sys2Proof.Machine

variable (s : State)

/-! ## `State.storeByte` -/

@[simp] theorem State.storeByte_done (a : HostAddr) (b : Byte) : (s.storeByte a b).done = s.done := rfl
@[simp] theorem State.storeByte_busy (a : HostAddr) (b : Byte) : (s.storeByte a b).busy = s.busy := rfl
@[simp] theorem State.storeByte_cause (a : HostAddr) (b : Byte) : (s.storeByte a b).cause = s.cause := rfl
@[simp] theorem State.storeByte_nackseen (a : HostAddr) (b : Byte) : (s.storeByte a b).nackseen = s.nackseen := rfl
@[simp] theorem State.storeByte_saddr (a : HostAddr) (b : Byte) : (s.storeByte a b).saddr = s.saddr := rfl
@[simp] theorem State.storeByte_len (a : HostAddr) (b : Byte) : (s.storeByte a b).len = s.len := rfl
@[simp] theorem State.storeByte_bufl (a : HostAddr) (b : Byte) : (s.storeByte a b).bufl = s.bufl := rfl
@[simp] theorem State.storeByte_bufh (a : HostAddr) (b : Byte) : (s.storeByte a b).bufh = s.bufh := rfl
@[simp] theorem State.storeByte_regidx (a : HostAddr) (b : Byte) : (s.storeByte a b).regidx = s.regidx := rfl
@[simp] theorem State.storeByte_rxdata (a : HostAddr) (b : Byte) : (s.storeByte a b).rxdata = s.rxdata := rfl
@[simp] theorem State.storeByte_clkdiv (a : HostAddr) (b : Byte) : (s.storeByte a b).clkdiv = s.clkdiv := rfl
@[simp] theorem State.storeByte_cfg (a : HostAddr) (b : Byte) : (s.storeByte a b).cfg = s.cfg := rfl
@[simp] theorem State.storeByte_ifg (a : HostAddr) (b : Byte) : (s.storeByte a b).ifg = s.ifg := rfl
@[simp] theorem State.storeByte_evbits (a : HostAddr) (b : Byte) : (s.storeByte a b).evbits = s.evbits := rfl
@[simp] theorem State.storeByte_txn (a : HostAddr) (b : Byte) : (s.storeByte a b).txn = s.txn := rfl
@[simp] theorem State.storeByte_ph (a : HostAddr) (b : Byte) : (s.storeByte a b).ph = s.ph := rfl
@[simp] theorem State.storeByte_txshift (a : HostAddr) (b : Byte) : (s.storeByte a b).txshift = s.txshift := rfl
@[simp] theorem State.storeByte_rxshift (a : HostAddr) (b : Byte) : (s.storeByte a b).rxshift = s.rxshift := rfl
@[simp] theorem State.storeByte_trace (a : HostAddr) (b : Byte) : (s.storeByte a b).trace = s.trace := rfl
@[simp] theorem State.storeByte_faults (a : HostAddr) (b : Byte) : (s.storeByte a b).faults = s.faults := rfl
@[simp] theorem State.storeByte_rdata (a : HostAddr) (b : Byte) : (s.storeByte a b).rdata = s.rdata := rfl
@[simp] theorem State.storeByte_mem (a : HostAddr) (b : Byte) : (s.storeByte a b).mem = Memory.write s.mem a.toNat b := rfl
@[simp] theorem State.storeByte_h (a : HostAddr) (b : Byte) : (s.storeByte a b).h = s.h := rfl
@[simp] theorem State.storeByte_hpc (a : HostAddr) (b : Byte) : (s.storeByte a b).hpc = s.hpc := rfl
@[simp] theorem State.storeByte_log (a : HostAddr) (b : Byte) : (s.storeByte a b).log = s.log := rfl
@[simp] theorem State.storeByte_halted (a : HostAddr) (b : Byte) : (s.storeByte a b).halted = s.halted := rfl
@[simp] theorem State.storeByte_prog (a : HostAddr) (b : Byte) : (s.storeByte a b).prog = s.prog := rfl
@[simp] theorem State.storeByte_par (a : HostAddr) (b : Byte) : (s.storeByte a b).par = s.par := rfl
@[simp] theorem State.storeByte_agenda (a : HostAddr) (b : Byte) : (s.storeByte a b).agenda = s.agenda := rfl
@[simp] theorem State.storeByte_turns (a : HostAddr) (b : Byte) : (s.storeByte a b).turns = s.turns := rfl

/-! ## `State.setH` -/

@[simp] theorem State.setH_done (n : HReg) (v : Byte) : (s.setH n v).done = s.done := rfl
@[simp] theorem State.setH_busy (n : HReg) (v : Byte) : (s.setH n v).busy = s.busy := rfl
@[simp] theorem State.setH_cause (n : HReg) (v : Byte) : (s.setH n v).cause = s.cause := rfl
@[simp] theorem State.setH_nackseen (n : HReg) (v : Byte) : (s.setH n v).nackseen = s.nackseen := rfl
@[simp] theorem State.setH_saddr (n : HReg) (v : Byte) : (s.setH n v).saddr = s.saddr := rfl
@[simp] theorem State.setH_len (n : HReg) (v : Byte) : (s.setH n v).len = s.len := rfl
@[simp] theorem State.setH_bufl (n : HReg) (v : Byte) : (s.setH n v).bufl = s.bufl := rfl
@[simp] theorem State.setH_bufh (n : HReg) (v : Byte) : (s.setH n v).bufh = s.bufh := rfl
@[simp] theorem State.setH_regidx (n : HReg) (v : Byte) : (s.setH n v).regidx = s.regidx := rfl
@[simp] theorem State.setH_rxdata (n : HReg) (v : Byte) : (s.setH n v).rxdata = s.rxdata := rfl
@[simp] theorem State.setH_clkdiv (n : HReg) (v : Byte) : (s.setH n v).clkdiv = s.clkdiv := rfl
@[simp] theorem State.setH_cfg (n : HReg) (v : Byte) : (s.setH n v).cfg = s.cfg := rfl
@[simp] theorem State.setH_ifg (n : HReg) (v : Byte) : (s.setH n v).ifg = s.ifg := rfl
@[simp] theorem State.setH_evbits (n : HReg) (v : Byte) : (s.setH n v).evbits = s.evbits := rfl
@[simp] theorem State.setH_txn (n : HReg) (v : Byte) : (s.setH n v).txn = s.txn := rfl
@[simp] theorem State.setH_ph (n : HReg) (v : Byte) : (s.setH n v).ph = s.ph := rfl
@[simp] theorem State.setH_txshift (n : HReg) (v : Byte) : (s.setH n v).txshift = s.txshift := rfl
@[simp] theorem State.setH_rxshift (n : HReg) (v : Byte) : (s.setH n v).rxshift = s.rxshift := rfl
@[simp] theorem State.setH_trace (n : HReg) (v : Byte) : (s.setH n v).trace = s.trace := rfl
@[simp] theorem State.setH_faults (n : HReg) (v : Byte) : (s.setH n v).faults = s.faults := rfl
@[simp] theorem State.setH_rdata (n : HReg) (v : Byte) : (s.setH n v).rdata = s.rdata := rfl
@[simp] theorem State.setH_mem (n : HReg) (v : Byte) : (s.setH n v).mem = s.mem := rfl
@[simp] theorem State.setH_h (n : HReg) (v : Byte) : (s.setH n v).h = s.h.set n v := rfl
@[simp] theorem State.setH_hpc (n : HReg) (v : Byte) : (s.setH n v).hpc = s.hpc := rfl
@[simp] theorem State.setH_log (n : HReg) (v : Byte) : (s.setH n v).log = s.log := rfl
@[simp] theorem State.setH_halted (n : HReg) (v : Byte) : (s.setH n v).halted = s.halted := rfl
@[simp] theorem State.setH_prog (n : HReg) (v : Byte) : (s.setH n v).prog = s.prog := rfl
@[simp] theorem State.setH_par (n : HReg) (v : Byte) : (s.setH n v).par = s.par := rfl
@[simp] theorem State.setH_agenda (n : HReg) (v : Byte) : (s.setH n v).agenda = s.agenda := rfl
@[simp] theorem State.setH_turns (n : HReg) (v : Byte) : (s.setH n v).turns = s.turns := rfl

/-! ## `State.jump` -/

@[simp] theorem State.jump_done (l : Nat) : (s.jump l).done = s.done := rfl
@[simp] theorem State.jump_busy (l : Nat) : (s.jump l).busy = s.busy := rfl
@[simp] theorem State.jump_cause (l : Nat) : (s.jump l).cause = s.cause := rfl
@[simp] theorem State.jump_nackseen (l : Nat) : (s.jump l).nackseen = s.nackseen := rfl
@[simp] theorem State.jump_saddr (l : Nat) : (s.jump l).saddr = s.saddr := rfl
@[simp] theorem State.jump_len (l : Nat) : (s.jump l).len = s.len := rfl
@[simp] theorem State.jump_bufl (l : Nat) : (s.jump l).bufl = s.bufl := rfl
@[simp] theorem State.jump_bufh (l : Nat) : (s.jump l).bufh = s.bufh := rfl
@[simp] theorem State.jump_regidx (l : Nat) : (s.jump l).regidx = s.regidx := rfl
@[simp] theorem State.jump_rxdata (l : Nat) : (s.jump l).rxdata = s.rxdata := rfl
@[simp] theorem State.jump_clkdiv (l : Nat) : (s.jump l).clkdiv = s.clkdiv := rfl
@[simp] theorem State.jump_cfg (l : Nat) : (s.jump l).cfg = s.cfg := rfl
@[simp] theorem State.jump_ifg (l : Nat) : (s.jump l).ifg = s.ifg := rfl
@[simp] theorem State.jump_evbits (l : Nat) : (s.jump l).evbits = s.evbits := rfl
@[simp] theorem State.jump_txn (l : Nat) : (s.jump l).txn = s.txn := rfl
@[simp] theorem State.jump_ph (l : Nat) : (s.jump l).ph = s.ph := rfl
@[simp] theorem State.jump_txshift (l : Nat) : (s.jump l).txshift = s.txshift := rfl
@[simp] theorem State.jump_rxshift (l : Nat) : (s.jump l).rxshift = s.rxshift := rfl
@[simp] theorem State.jump_trace (l : Nat) : (s.jump l).trace = s.trace := rfl
@[simp] theorem State.jump_faults (l : Nat) : (s.jump l).faults = s.faults := rfl
@[simp] theorem State.jump_rdata (l : Nat) : (s.jump l).rdata = s.rdata := rfl
@[simp] theorem State.jump_mem (l : Nat) : (s.jump l).mem = s.mem := rfl
@[simp] theorem State.jump_h (l : Nat) : (s.jump l).h = s.h := rfl
@[simp] theorem State.jump_hpc (l : Nat) : (s.jump l).hpc = l := rfl
@[simp] theorem State.jump_log (l : Nat) : (s.jump l).log = s.log := rfl
@[simp] theorem State.jump_halted (l : Nat) : (s.jump l).halted = s.halted := rfl
@[simp] theorem State.jump_prog (l : Nat) : (s.jump l).prog = s.prog := rfl
@[simp] theorem State.jump_par (l : Nat) : (s.jump l).par = s.par := rfl
@[simp] theorem State.jump_agenda (l : Nat) : (s.jump l).agenda = s.agenda := rfl
@[simp] theorem State.jump_turns (l : Nat) : (s.jump l).turns = s.turns := rfl

/-! ## `State.returnByte` -/

@[simp] theorem State.returnByte_done (b : Byte) : (s.returnByte b).done = s.done := rfl
@[simp] theorem State.returnByte_busy (b : Byte) : (s.returnByte b).busy = s.busy := rfl
@[simp] theorem State.returnByte_cause (b : Byte) : (s.returnByte b).cause = s.cause := rfl
@[simp] theorem State.returnByte_nackseen (b : Byte) : (s.returnByte b).nackseen = s.nackseen := rfl
@[simp] theorem State.returnByte_saddr (b : Byte) : (s.returnByte b).saddr = s.saddr := rfl
@[simp] theorem State.returnByte_len (b : Byte) : (s.returnByte b).len = s.len := rfl
@[simp] theorem State.returnByte_bufl (b : Byte) : (s.returnByte b).bufl = s.bufl := rfl
@[simp] theorem State.returnByte_bufh (b : Byte) : (s.returnByte b).bufh = s.bufh := rfl
@[simp] theorem State.returnByte_regidx (b : Byte) : (s.returnByte b).regidx = s.regidx := rfl
@[simp] theorem State.returnByte_rxdata (b : Byte) : (s.returnByte b).rxdata = s.rxdata := rfl
@[simp] theorem State.returnByte_clkdiv (b : Byte) : (s.returnByte b).clkdiv = s.clkdiv := rfl
@[simp] theorem State.returnByte_cfg (b : Byte) : (s.returnByte b).cfg = s.cfg := rfl
@[simp] theorem State.returnByte_ifg (b : Byte) : (s.returnByte b).ifg = s.ifg := rfl
@[simp] theorem State.returnByte_evbits (b : Byte) : (s.returnByte b).evbits = s.evbits := rfl
@[simp] theorem State.returnByte_txn (b : Byte) : (s.returnByte b).txn = s.txn := rfl
@[simp] theorem State.returnByte_ph (b : Byte) : (s.returnByte b).ph = s.ph := rfl
@[simp] theorem State.returnByte_txshift (b : Byte) : (s.returnByte b).txshift = s.txshift := rfl
@[simp] theorem State.returnByte_rxshift (b : Byte) : (s.returnByte b).rxshift = s.rxshift := rfl
@[simp] theorem State.returnByte_trace (b : Byte) : (s.returnByte b).trace = s.trace := rfl
@[simp] theorem State.returnByte_faults (b : Byte) : (s.returnByte b).faults = s.faults := rfl
@[simp] theorem State.returnByte_rdata (b : Byte) : (s.returnByte b).rdata = b := rfl
@[simp] theorem State.returnByte_mem (b : Byte) : (s.returnByte b).mem = s.mem := rfl
@[simp] theorem State.returnByte_h (b : Byte) : (s.returnByte b).h = s.h := rfl
@[simp] theorem State.returnByte_hpc (b : Byte) : (s.returnByte b).hpc = s.hpc := rfl
@[simp] theorem State.returnByte_log (b : Byte) : (s.returnByte b).log = s.log := rfl
@[simp] theorem State.returnByte_halted (b : Byte) : (s.returnByte b).halted = s.halted := rfl
@[simp] theorem State.returnByte_prog (b : Byte) : (s.returnByte b).prog = s.prog := rfl
@[simp] theorem State.returnByte_par (b : Byte) : (s.returnByte b).par = s.par := rfl
@[simp] theorem State.returnByte_agenda (b : Byte) : (s.returnByte b).agenda = s.agenda := rfl
@[simp] theorem State.returnByte_turns (b : Byte) : (s.returnByte b).turns = s.turns := rfl

/-! ## `State.recordFault` -/

@[simp] theorem State.recordFault_done (c : FaultCode) : (s.recordFault c).done = s.done := rfl
@[simp] theorem State.recordFault_busy (c : FaultCode) : (s.recordFault c).busy = s.busy := rfl
@[simp] theorem State.recordFault_cause (c : FaultCode) : (s.recordFault c).cause = s.cause := rfl
@[simp] theorem State.recordFault_nackseen (c : FaultCode) : (s.recordFault c).nackseen = s.nackseen := rfl
@[simp] theorem State.recordFault_saddr (c : FaultCode) : (s.recordFault c).saddr = s.saddr := rfl
@[simp] theorem State.recordFault_len (c : FaultCode) : (s.recordFault c).len = s.len := rfl
@[simp] theorem State.recordFault_bufl (c : FaultCode) : (s.recordFault c).bufl = s.bufl := rfl
@[simp] theorem State.recordFault_bufh (c : FaultCode) : (s.recordFault c).bufh = s.bufh := rfl
@[simp] theorem State.recordFault_regidx (c : FaultCode) : (s.recordFault c).regidx = s.regidx := rfl
@[simp] theorem State.recordFault_rxdata (c : FaultCode) : (s.recordFault c).rxdata = s.rxdata := rfl
@[simp] theorem State.recordFault_clkdiv (c : FaultCode) : (s.recordFault c).clkdiv = s.clkdiv := rfl
@[simp] theorem State.recordFault_cfg (c : FaultCode) : (s.recordFault c).cfg = s.cfg := rfl
@[simp] theorem State.recordFault_ifg (c : FaultCode) : (s.recordFault c).ifg = s.ifg := rfl
@[simp] theorem State.recordFault_evbits (c : FaultCode) : (s.recordFault c).evbits = s.evbits := rfl
@[simp] theorem State.recordFault_txn (c : FaultCode) : (s.recordFault c).txn = s.txn := rfl
@[simp] theorem State.recordFault_ph (c : FaultCode) : (s.recordFault c).ph = s.ph := rfl
@[simp] theorem State.recordFault_txshift (c : FaultCode) : (s.recordFault c).txshift = s.txshift := rfl
@[simp] theorem State.recordFault_rxshift (c : FaultCode) : (s.recordFault c).rxshift = s.rxshift := rfl
@[simp] theorem State.recordFault_trace (c : FaultCode) : (s.recordFault c).trace = s.trace := rfl
@[simp] theorem State.recordFault_faults (c : FaultCode) : (s.recordFault c).faults = insertFault c s.faults := rfl
@[simp] theorem State.recordFault_rdata (c : FaultCode) : (s.recordFault c).rdata = s.rdata := rfl
@[simp] theorem State.recordFault_mem (c : FaultCode) : (s.recordFault c).mem = s.mem := rfl
@[simp] theorem State.recordFault_h (c : FaultCode) : (s.recordFault c).h = s.h := rfl
@[simp] theorem State.recordFault_hpc (c : FaultCode) : (s.recordFault c).hpc = s.hpc := rfl
@[simp] theorem State.recordFault_log (c : FaultCode) : (s.recordFault c).log = s.log := rfl
@[simp] theorem State.recordFault_halted (c : FaultCode) : (s.recordFault c).halted = s.halted := rfl
@[simp] theorem State.recordFault_prog (c : FaultCode) : (s.recordFault c).prog = s.prog := rfl
@[simp] theorem State.recordFault_par (c : FaultCode) : (s.recordFault c).par = s.par := rfl
@[simp] theorem State.recordFault_agenda (c : FaultCode) : (s.recordFault c).agenda = s.agenda := rfl
@[simp] theorem State.recordFault_turns (c : FaultCode) : (s.recordFault c).turns = s.turns := rfl

/-! ## `State.emit` -/

@[simp] theorem State.emit_done (syms : List Sym) : (s.emit syms).done = s.done := rfl
@[simp] theorem State.emit_busy (syms : List Sym) : (s.emit syms).busy = s.busy := rfl
@[simp] theorem State.emit_cause (syms : List Sym) : (s.emit syms).cause = s.cause := rfl
@[simp] theorem State.emit_nackseen (syms : List Sym) : (s.emit syms).nackseen = s.nackseen := rfl
@[simp] theorem State.emit_saddr (syms : List Sym) : (s.emit syms).saddr = s.saddr := rfl
@[simp] theorem State.emit_len (syms : List Sym) : (s.emit syms).len = s.len := rfl
@[simp] theorem State.emit_bufl (syms : List Sym) : (s.emit syms).bufl = s.bufl := rfl
@[simp] theorem State.emit_bufh (syms : List Sym) : (s.emit syms).bufh = s.bufh := rfl
@[simp] theorem State.emit_regidx (syms : List Sym) : (s.emit syms).regidx = s.regidx := rfl
@[simp] theorem State.emit_rxdata (syms : List Sym) : (s.emit syms).rxdata = s.rxdata := rfl
@[simp] theorem State.emit_clkdiv (syms : List Sym) : (s.emit syms).clkdiv = s.clkdiv := rfl
@[simp] theorem State.emit_cfg (syms : List Sym) : (s.emit syms).cfg = s.cfg := rfl
@[simp] theorem State.emit_ifg (syms : List Sym) : (s.emit syms).ifg = s.ifg := rfl
@[simp] theorem State.emit_evbits (syms : List Sym) : (s.emit syms).evbits = s.evbits := rfl
@[simp] theorem State.emit_txn (syms : List Sym) : (s.emit syms).txn = s.txn := rfl
@[simp] theorem State.emit_ph (syms : List Sym) : (s.emit syms).ph = s.ph := rfl
@[simp] theorem State.emit_txshift (syms : List Sym) : (s.emit syms).txshift = s.txshift := rfl
@[simp] theorem State.emit_rxshift (syms : List Sym) : (s.emit syms).rxshift = s.rxshift := rfl
@[simp] theorem State.emit_trace (syms : List Sym) : (s.emit syms).trace = s.trace ++ syms := rfl
@[simp] theorem State.emit_faults (syms : List Sym) : (s.emit syms).faults = s.faults := rfl
@[simp] theorem State.emit_rdata (syms : List Sym) : (s.emit syms).rdata = s.rdata := rfl
@[simp] theorem State.emit_mem (syms : List Sym) : (s.emit syms).mem = s.mem := rfl
@[simp] theorem State.emit_h (syms : List Sym) : (s.emit syms).h = s.h := rfl
@[simp] theorem State.emit_hpc (syms : List Sym) : (s.emit syms).hpc = s.hpc := rfl
@[simp] theorem State.emit_log (syms : List Sym) : (s.emit syms).log = s.log := rfl
@[simp] theorem State.emit_halted (syms : List Sym) : (s.emit syms).halted = s.halted := rfl
@[simp] theorem State.emit_prog (syms : List Sym) : (s.emit syms).prog = s.prog := rfl
@[simp] theorem State.emit_par (syms : List Sym) : (s.emit syms).par = s.par := rfl
@[simp] theorem State.emit_agenda (syms : List Sym) : (s.emit syms).agenda = s.agenda := rfl
@[simp] theorem State.emit_turns (syms : List Sym) : (s.emit syms).turns = s.turns := rfl

/-! ## `State.post` -/

@[simp] theorem State.post_done (m : BitVec 4) : (s.post m).done = s.done := rfl
@[simp] theorem State.post_busy (m : BitVec 4) : (s.post m).busy = s.busy := rfl
@[simp] theorem State.post_cause (m : BitVec 4) : (s.post m).cause = s.cause := rfl
@[simp] theorem State.post_nackseen (m : BitVec 4) : (s.post m).nackseen = s.nackseen := rfl
@[simp] theorem State.post_saddr (m : BitVec 4) : (s.post m).saddr = s.saddr := rfl
@[simp] theorem State.post_len (m : BitVec 4) : (s.post m).len = s.len := rfl
@[simp] theorem State.post_bufl (m : BitVec 4) : (s.post m).bufl = s.bufl := rfl
@[simp] theorem State.post_bufh (m : BitVec 4) : (s.post m).bufh = s.bufh := rfl
@[simp] theorem State.post_regidx (m : BitVec 4) : (s.post m).regidx = s.regidx := rfl
@[simp] theorem State.post_rxdata (m : BitVec 4) : (s.post m).rxdata = s.rxdata := rfl
@[simp] theorem State.post_clkdiv (m : BitVec 4) : (s.post m).clkdiv = s.clkdiv := rfl
@[simp] theorem State.post_cfg (m : BitVec 4) : (s.post m).cfg = s.cfg := rfl
@[simp] theorem State.post_ifg (m : BitVec 4) : (s.post m).ifg = s.ifg := rfl
@[simp] theorem State.post_evbits (m : BitVec 4) : (s.post m).evbits = s.evbits ||| m := rfl
@[simp] theorem State.post_txn (m : BitVec 4) : (s.post m).txn = s.txn := rfl
@[simp] theorem State.post_ph (m : BitVec 4) : (s.post m).ph = s.ph := rfl
@[simp] theorem State.post_txshift (m : BitVec 4) : (s.post m).txshift = s.txshift := rfl
@[simp] theorem State.post_rxshift (m : BitVec 4) : (s.post m).rxshift = s.rxshift := rfl
@[simp] theorem State.post_trace (m : BitVec 4) : (s.post m).trace = s.trace := rfl
@[simp] theorem State.post_faults (m : BitVec 4) : (s.post m).faults = s.faults := rfl
@[simp] theorem State.post_rdata (m : BitVec 4) : (s.post m).rdata = s.rdata := rfl
@[simp] theorem State.post_mem (m : BitVec 4) : (s.post m).mem = s.mem := rfl
@[simp] theorem State.post_h (m : BitVec 4) : (s.post m).h = s.h := rfl
@[simp] theorem State.post_hpc (m : BitVec 4) : (s.post m).hpc = s.hpc := rfl
@[simp] theorem State.post_log (m : BitVec 4) : (s.post m).log = s.log := rfl
@[simp] theorem State.post_halted (m : BitVec 4) : (s.post m).halted = s.halted := rfl
@[simp] theorem State.post_prog (m : BitVec 4) : (s.post m).prog = s.prog := rfl
@[simp] theorem State.post_par (m : BitVec 4) : (s.post m).par = s.par := rfl
@[simp] theorem State.post_agenda (m : BitVec 4) : (s.post m).agenda = s.agenda := rfl
@[simp] theorem State.post_turns (m : BitVec 4) : (s.post m).turns = s.turns := rfl

/-! ## `State.issue` -/

@[simp] theorem State.issue_done (t : Transaction) : (s.issue t).done = false := rfl
@[simp] theorem State.issue_busy (t : Transaction) : (s.issue t).busy = true := rfl
@[simp] theorem State.issue_cause (t : Transaction) : (s.issue t).cause = .none := rfl
@[simp] theorem State.issue_nackseen (t : Transaction) : (s.issue t).nackseen = false := rfl
@[simp] theorem State.issue_saddr (t : Transaction) : (s.issue t).saddr = s.saddr := rfl
@[simp] theorem State.issue_len (t : Transaction) : (s.issue t).len = s.len := rfl
@[simp] theorem State.issue_bufl (t : Transaction) : (s.issue t).bufl = s.bufl := rfl
@[simp] theorem State.issue_bufh (t : Transaction) : (s.issue t).bufh = s.bufh := rfl
@[simp] theorem State.issue_regidx (t : Transaction) : (s.issue t).regidx = s.regidx := rfl
@[simp] theorem State.issue_rxdata (t : Transaction) : (s.issue t).rxdata = s.rxdata := rfl
@[simp] theorem State.issue_clkdiv (t : Transaction) : (s.issue t).clkdiv = s.clkdiv := rfl
@[simp] theorem State.issue_cfg (t : Transaction) : (s.issue t).cfg = s.cfg := rfl
@[simp] theorem State.issue_ifg (t : Transaction) : (s.issue t).ifg = s.ifg := rfl
@[simp] theorem State.issue_evbits (t : Transaction) : (s.issue t).evbits = s.evbits := rfl
@[simp] theorem State.issue_txn (t : Transaction) : (s.issue t).txn = t := rfl
@[simp] theorem State.issue_ph (t : Transaction) : (s.issue t).ph = .addr := rfl
@[simp] theorem State.issue_txshift (t : Transaction) : (s.issue t).txshift = s.txshift := rfl
@[simp] theorem State.issue_rxshift (t : Transaction) : (s.issue t).rxshift = s.rxshift := rfl
@[simp] theorem State.issue_trace (t : Transaction) : (s.issue t).trace = s.trace ++ [.s] := rfl
@[simp] theorem State.issue_faults (t : Transaction) : (s.issue t).faults = s.faults := rfl
@[simp] theorem State.issue_rdata (t : Transaction) : (s.issue t).rdata = s.rdata := rfl
@[simp] theorem State.issue_mem (t : Transaction) : (s.issue t).mem = s.mem := rfl
@[simp] theorem State.issue_h (t : Transaction) : (s.issue t).h = s.h := rfl
@[simp] theorem State.issue_hpc (t : Transaction) : (s.issue t).hpc = s.hpc := rfl
@[simp] theorem State.issue_log (t : Transaction) : (s.issue t).log = s.log := rfl
@[simp] theorem State.issue_halted (t : Transaction) : (s.issue t).halted = s.halted := rfl
@[simp] theorem State.issue_prog (t : Transaction) : (s.issue t).prog = s.prog := rfl
@[simp] theorem State.issue_par (t : Transaction) : (s.issue t).par = s.par := rfl
@[simp] theorem State.issue_agenda (t : Transaction) : (s.issue t).agenda = s.agenda := rfl
@[simp] theorem State.issue_turns (t : Transaction) : (s.issue t).turns = s.turns := rfl

/-! ## `State.startReadStage` -/

@[simp] theorem State.startReadStage_done : s.startReadStage.done = s.done := rfl
@[simp] theorem State.startReadStage_busy : s.startReadStage.busy = s.busy := rfl
@[simp] theorem State.startReadStage_cause : s.startReadStage.cause = s.cause := rfl
@[simp] theorem State.startReadStage_nackseen : s.startReadStage.nackseen = s.nackseen := rfl
@[simp] theorem State.startReadStage_saddr : s.startReadStage.saddr = s.saddr := rfl
@[simp] theorem State.startReadStage_len : s.startReadStage.len = s.len := rfl
@[simp] theorem State.startReadStage_bufl : s.startReadStage.bufl = s.bufl := rfl
@[simp] theorem State.startReadStage_bufh : s.startReadStage.bufh = s.bufh := rfl
@[simp] theorem State.startReadStage_regidx : s.startReadStage.regidx = s.regidx := rfl
@[simp] theorem State.startReadStage_rxdata : s.startReadStage.rxdata = s.rxdata := rfl
@[simp] theorem State.startReadStage_clkdiv : s.startReadStage.clkdiv = s.clkdiv := rfl
@[simp] theorem State.startReadStage_cfg : s.startReadStage.cfg = s.cfg := rfl
@[simp] theorem State.startReadStage_ifg : s.startReadStage.ifg = s.ifg := rfl
@[simp] theorem State.startReadStage_evbits : s.startReadStage.evbits = s.evbits := rfl
@[simp] theorem State.startReadStage_txn : s.startReadStage.txn = s.txn.readStage := rfl
@[simp] theorem State.startReadStage_ph : s.startReadStage.ph = .addr := rfl
@[simp] theorem State.startReadStage_txshift : s.startReadStage.txshift = s.txshift := rfl
@[simp] theorem State.startReadStage_rxshift : s.startReadStage.rxshift = s.rxshift := rfl
@[simp] theorem State.startReadStage_trace : s.startReadStage.trace = s.trace ++ [.s] := rfl
@[simp] theorem State.startReadStage_faults : s.startReadStage.faults = s.faults := rfl
@[simp] theorem State.startReadStage_rdata : s.startReadStage.rdata = s.rdata := rfl
@[simp] theorem State.startReadStage_mem : s.startReadStage.mem = s.mem := rfl
@[simp] theorem State.startReadStage_h : s.startReadStage.h = s.h := rfl
@[simp] theorem State.startReadStage_hpc : s.startReadStage.hpc = s.hpc := rfl
@[simp] theorem State.startReadStage_log : s.startReadStage.log = s.log := rfl
@[simp] theorem State.startReadStage_halted : s.startReadStage.halted = s.halted := rfl
@[simp] theorem State.startReadStage_prog : s.startReadStage.prog = s.prog := rfl
@[simp] theorem State.startReadStage_par : s.startReadStage.par = s.par := rfl
@[simp] theorem State.startReadStage_agenda : s.startReadStage.agenda = s.agenda := rfl
@[simp] theorem State.startReadStage_turns : s.startReadStage.turns = s.turns := rfl

/-! ## `State.finish` -/

@[simp] theorem State.finish_done (c : Cause) : (s.finish c).done = true := rfl
@[simp] theorem State.finish_busy (c : Cause) : (s.finish c).busy = false := rfl
@[simp] theorem State.finish_cause (c : Cause) : (s.finish c).cause = c := rfl
@[simp] theorem State.finish_nackseen (c : Cause) : (s.finish c).nackseen = s.nackseen := rfl
@[simp] theorem State.finish_saddr (c : Cause) : (s.finish c).saddr = s.saddr := rfl
@[simp] theorem State.finish_len (c : Cause) : (s.finish c).len = s.len := rfl
@[simp] theorem State.finish_bufl (c : Cause) : (s.finish c).bufl = s.bufl := rfl
@[simp] theorem State.finish_bufh (c : Cause) : (s.finish c).bufh = s.bufh := rfl
@[simp] theorem State.finish_regidx (c : Cause) : (s.finish c).regidx = s.regidx := rfl
@[simp] theorem State.finish_rxdata (c : Cause) : (s.finish c).rxdata = s.rxdata := rfl
@[simp] theorem State.finish_clkdiv (c : Cause) : (s.finish c).clkdiv = s.clkdiv := rfl
@[simp] theorem State.finish_cfg (c : Cause) : (s.finish c).cfg = s.cfg := rfl
@[simp] theorem State.finish_ifg (c : Cause) : (s.finish c).ifg = s.ifg := rfl
@[simp] theorem State.finish_evbits (c : Cause) : (s.finish c).evbits = s.evbits := rfl
@[simp] theorem State.finish_txn (c : Cause) : (s.finish c).txn = .empty := rfl
@[simp] theorem State.finish_ph (c : Cause) : (s.finish c).ph = .idle := rfl
@[simp] theorem State.finish_txshift (c : Cause) : (s.finish c).txshift = s.txshift := rfl
@[simp] theorem State.finish_rxshift (c : Cause) : (s.finish c).rxshift = s.rxshift := rfl
@[simp] theorem State.finish_trace (c : Cause) : (s.finish c).trace = s.trace := rfl
@[simp] theorem State.finish_faults (c : Cause) : (s.finish c).faults = s.faults := rfl
@[simp] theorem State.finish_rdata (c : Cause) : (s.finish c).rdata = s.rdata := rfl
@[simp] theorem State.finish_mem (c : Cause) : (s.finish c).mem = s.mem := rfl
@[simp] theorem State.finish_h (c : Cause) : (s.finish c).h = s.h := rfl
@[simp] theorem State.finish_hpc (c : Cause) : (s.finish c).hpc = s.hpc := rfl
@[simp] theorem State.finish_log (c : Cause) : (s.finish c).log = s.log := rfl
@[simp] theorem State.finish_halted (c : Cause) : (s.finish c).halted = s.halted := rfl
@[simp] theorem State.finish_prog (c : Cause) : (s.finish c).prog = s.prog := rfl
@[simp] theorem State.finish_par (c : Cause) : (s.finish c).par = s.par := rfl
@[simp] theorem State.finish_agenda (c : Cause) : (s.finish c).agenda = s.agenda := rfl
@[simp] theorem State.finish_turns (c : Cause) : (s.finish c).turns = s.turns := rfl

/-! ## `State.advance` is a jump, and `setH` reads back -/

@[simp] theorem State.advance_eq : s.advance = s.jump (s.hpc + 1) := rfl

@[simp] theorem State.readH_setH (n : HReg) (v : Byte) : (s.setH n v).readH n = v := by
  simp [State.readH, State.setH]

theorem State.readH_setH_ne (n k : HReg) (v : Byte) (h : n ≠ k) : (s.setH n v).readH k = s.readH k := by
  have h' : n.val ≠ k.val := fun e => h (Fin.ext e)
  simp [State.readH, State.setH, h']

@[simp] theorem State.readH_jump (l : Nat) (n : HReg) : (s.jump l).readH n = s.readH n := rfl

end Sys2Proof.Machine
end

