-- ==== Sys2Proof/Laws/Ops.lean ====
section
/-! SUPPORT. What the shared operations can do, once each: faults, the engine's choice, completion, events, the returned
byte, MEMWIN. -/

namespace Sys2Proof.Machine

/-! ## Faults -/

@[simp] theorem raise_ne_next (c : FaultCode) (s t : State) : raise c s ≠ .next t := by simp [raise]

@[simp] theorem raise_eq_fault (c : FaultCode) (s : State) (f : Fault) :
    raise c s = .fault f ↔ f = .raised c (s.recordFault c) := by simp [raise, eq_comm]

@[simp] theorem raise_ne_refused (c : FaultCode) (s : State) (r : Refusal) : raise c s ≠ .refused r := by simp [raise]

/-- FAULT after a code is recorded: that code and those before (R8). -/
theorem mem_insertFault {c d : FaultCode} : ∀ {l : List FaultCode}, d ∈ insertFault c l ↔ d = c ∨ d ∈ l
  | [] => by simp [insertFault]
  | e :: l => by
    have ih := mem_insertFault (c := c) (d := d) (l := l)
    have hr : c.rank = e.rank → c = e := by cases c <;> cases e <;> simp [FaultCode.rank]
    rw [insertFault]
    split
    · simp
    · split
      · rename_i h; rw [hr h]; simp
      · simp only [List.mem_cons, ih]; exact or_left_comm

/-! ## Offsets (R68) -/

/-- The block answers for `BASE + off`. -/
theorem offsetOf_add (p : Params) (off : Offset) : p.offsetOf (p.base + off.toNat) = some off := by
  have := off.isLt
  simp [Params.offsetOf]; omega

/-- It does not answer elsewhere. -/
theorem offsetOf_outside {p : Params} {addr : Nat} (h : addr < p.base ∨ p.base + 16 ≤ addr) : p.offsetOf addr = none := by
  rw [Params.offsetOf, if_neg]; omega

/-! ## The engine's flag (R125) -/

/-- The selected flag is pending and enabled. -/
theorem State.serviceable_of_selected {s : State} {f : Flag} (h : s.selectedFlag = some f) :
    s.serviceable f = true := by
  unfold State.selectedFlag at h
  split at h
  · cases h; assumption
  · split at h
    · cases h; assumption
    · split at h
      · cases h; assumption
      · split at h
        · cases h; assumption
        · cases h

/-- With no flag pending the engine has no step. -/
theorem State.selectedFlag_of_none {s : State} (h : s.ifg = .none) : s.selectedFlag = none := by
  simp [State.selectedFlag, State.serviceable, h, Ifg.none]

/-- With every enable 1 the selected flag is the first pending one in the order of R125. -/
theorem State.selectedFlag_afterInit {s : State} (h : s.cfg = .afterInit) :
    s.selectedFlag = if s.ifg.rxif then some .rx else if s.ifg.txif then some .tx
      else if s.ifg.nackif then some .nack else if s.ifg.stpif then some .stop else none := by
  simp [State.selectedFlag, State.serviceable, h, Cfg.afterInit]

/-- With every enable 0 the engine has no step. -/
theorem State.selectedFlag_reset {s : State} (h : s.cfg = .reset) : s.selectedFlag = none := by
  simp [State.selectedFlag, State.serviceable, h, Cfg.reset]

/-! ## Completion (R130) -/

/-- A READREG in stage W goes on to stage R, whatever the cause. -/
theorem State.complete_stageW {s : State} (c : Cause) (hc : s.txn.cmd = .readreg) (hs : s.txn.stage = .w) :
    s.complete c = s.startReadStage := by simp [State.complete, hc, hs]

/-- Everything else is finished. -/
theorem State.complete_final {s : State} (c : Cause) (h : s.txn.cmd ≠ .readreg ∨ s.txn.stage ≠ .w) :
    s.complete c = s.finish c := by
  unfold State.complete
  rw [if_neg]
  rintro ⟨h1, h2⟩
  rcases h with h | h <;> contradiction

/-- A completion is one of the two. -/
theorem State.complete_cases (s : State) (c : Cause) :
    (s.txn.cmd = .readreg ∧ s.txn.stage = .w ∧ s.complete c = s.startReadStage) ∨ s.complete c = s.finish c := by
  unfold State.complete
  split
  · rename_i h; exact .inl ⟨h.1, h.2, rfl⟩
  · exact .inr rfl

/-! ## Host memory reads (R6) -/

theorem State.memRead_of_inWindow {s : State} {a : HostAddr} (h : s.par.inWindow a = true) :
    s.memRead a = some (s.byteAt a) := by simp [State.memRead, h]

theorem State.memRead_of_not_inWindow {s : State} {a : HostAddr} (h : s.par.inWindow a = false) :
    s.memRead a = none := by simp [State.memRead, h]

/-! ## Events (R150, R153) -/

/-- `HP(v)` is pending, and no higher kind is (R150). -/
theorem highestPending_spec : ∀ (v : BitVec 4) (k : Fin 4), highestPending v = some k →
    v.getLsbD k.val = true ∧ ∀ j : Fin 4, k < j → v.getLsbD j.val = false := by decide

/-- `HP(0)` is "none", and only that (R150). -/
theorem highestPending_none : ∀ v : BitVec 4, highestPending v = none ↔ v = 0 := by decide

/-- A take code holds its event kind. -/
theorem takeCode_toNat : ∀ k : Fin 4, (takeCode k).toNat = 0x80 + k.val := by decide

end Sys2Proof.Machine
end

