-- ==== Sys2Proof/Laws/Access.lean ====
section
/-! SUPPORT. What a host access can do, said once: it is the instruction's own meaning, it never refuses, and its next
states are those listed in `performAccess_cases`. -/

namespace Sys2Proof.Machine

/-- A host access is executed as the instruction it decodes to. -/
theorem performAccess_eq_exec {i : Instr} (s : State) (h : i.isAccess = true) : performAccess i s = exec i s := by
  cases i <;> first | rfl | cases h

theorem hostWrite_eq_exec (off : Offset) (v : Byte) (s : State) :
    hostWrite off v s = exec (decodeWord (writeWord off v)) s := performAccess_eq_exec s (decodeWord_isAccess _)

theorem hostRead_eq_exec (off : Offset) (s : State) :
    hostRead off s = exec (decodeWord (readWord off 0x00)) s := performAccess_eq_exec s (decodeWord_isAccess _)

/-- The state `t` that a host access can lead to from `s`: each arm is one kind of access, with the conditions under
which it runs. -/
inductive AccessNext (s : State) : State → Prop where
  | same : AccessNext s s
  | read (b : Byte) : AccessNext s (s.returnByte b)
  | saddr (v : BitVec 7) : AccessNext s { s with saddr := v }
  | len (v : Byte) : AccessNext s { s with len := v }
  | bufl (v : Byte) : AccessNext s { s with bufl := v }
  | bufh (v : Byte) : AccessNext s { s with bufh := v }
  | regidx (v : Byte) : AccessNext s { s with regidx := v }
  | post (m : BitVec 4) : AccessNext s (s.post m)
  | take : AccessNext s { s with evbits := takenRest s.evbits, rdata := takenByte s.evbits }
  | init (hb : s.busy = false) : AccessNext s { s with cfg := .afterInit, clkdiv := s.par.pClkdiv }
  | write (hb : s.busy = false) (hm : s.cfg.mst = true) (hl : s.len ≠ 0) (hr : s.bufEnd ≤ 0x10000) :
    AccessNext s (s.issue s.writeTransaction)
  | readreg (hb : s.busy = false) (hm : s.cfg.mst = true) : AccessNext s (s.issue s.readregTransaction)

/-- I2C.INIT: a fault while BUSY, else CFG and CLKDIV (R101). -/
theorem execI2cInit_cases (s : State) :
    (s.busy = true ∧ execI2cInit s = raise .cmdBusy s) ∨
    (s.busy = false ∧ execI2cInit s = .next { s with cfg := .afterInit, clkdiv := s.par.pClkdiv }) := by
  cases h : s.busy <;> simp [execI2cInit, h]

/-- I2C.WRITE: one of four faults, or the command is issued (R102). -/
theorem execI2cWrite_cases (s : State) :
    (∃ c, execI2cWrite s = raise c s) ∨
    (s.busy = false ∧ s.cfg.mst = true ∧ s.len ≠ 0 ∧ s.bufEnd ≤ 0x10000 ∧
      execI2cWrite s = .next (s.issue s.writeTransaction)) := by
  unfold execI2cWrite
  split
  · exact .inl ⟨_, rfl⟩
  · split
    · exact .inl ⟨_, rfl⟩
    · split
      · exact .inl ⟨_, rfl⟩
      · split
        · exact .inl ⟨_, rfl⟩
        · rename_i h1 h2 h3 h4
          exact .inr ⟨by simpa using h1, by simpa using h2, h3, by omega, rfl⟩

/-- I2C.READREG: one of two faults, or the command is issued (R103). -/
theorem execI2cReadreg_cases (s : State) :
    (∃ c, execI2cReadreg s = raise c s) ∨
    (s.busy = false ∧ s.cfg.mst = true ∧ execI2cReadreg s = .next (s.issue s.readregTransaction)) := by
  unfold execI2cReadreg
  split
  · exact .inl ⟨_, rfl⟩
  · split
    · exact .inl ⟨_, rfl⟩
    · rename_i h1 h2
      exact .inr ⟨by simpa using h1, by simpa using h2, rfl⟩

/-- A host access faults with the state as it was, or goes to one of the states of `AccessNext`. -/
theorem performAccess_outcome {i : Instr} (s : State) (h : i.isAccess = true) :
    (∃ c, performAccess i s = raise c s) ∨ (∃ t, performAccess i s = .next t ∧ AccessNext s t) := by
  cases i
  case i2cInit =>
    rcases execI2cInit_cases s with ⟨-, e⟩ | ⟨hb, e⟩
    · exact .inl ⟨_, e⟩
    · exact .inr ⟨_, e, .init hb⟩
  case i2cWrite =>
    rcases execI2cWrite_cases s with ⟨c, e⟩ | ⟨hb, hm, hl, hr, e⟩
    · exact .inl ⟨c, e⟩
    · exact .inr ⟨_, e, .write hb hm hl hr⟩
  case i2cReadreg =>
    rcases execI2cReadreg_cases s with ⟨c, e⟩ | ⟨hb, hm, e⟩
    · exact .inl ⟨c, e⟩
    · exact .inr ⟨_, e, .readreg hb hm⟩
  case wrSaddr v => exact .inr ⟨_, rfl, .saddr _⟩
  case wrLen v => exact .inr ⟨_, rfl, .len v⟩
  case wrBufl v => exact .inr ⟨_, rfl, .bufl v⟩
  case wrBufh v => exact .inr ⟨_, rfl, .bufh v⟩
  case wrRegidx v => exact .inr ⟨_, rfl, .regidx v⟩
  case evPost v => exact .inr ⟨_, rfl, .post _⟩
  case evTake x => exact .inr ⟨_, rfl, .take⟩
  all_goals first
    | exact .inr ⟨_, rfl, .read _⟩
    | exact .inr ⟨_, rfl, .same⟩
    | exact .inl ⟨_, rfl⟩
    | cases h

/-- The inversion lemma of a host access. -/
theorem performAccess_cases {i : Instr} {s t : State} (h : i.isAccess = true) (e : performAccess i s = .next t) :
    AccessNext s t := by
  rcases performAccess_outcome s h with ⟨c, e'⟩ | ⟨u, e', hu⟩
  · rw [e'] at e; exact absurd e (raise_ne_next c s t)
  · rw [e'] at e; cases e; exact hu

end Sys2Proof.Machine
end

