-- ==== Sys2Proof/Laws/Exec.lean ====
section
/-! SUPPORT. What an instruction can do, once for each agent: the inversion lemmas of `exec`. -/

namespace Sys2Proof.Machine

/-! ## The host -/

/-- A host instruction makes at most one access, and changes nothing else but the harness's own state. -/
theorem exec_host_cases {i : Instr} {s t : State} (ha : i.agent = .host) (h : exec i s = .next t) :
    ∃ u, AccessNext s u ∧ ∃ hs pc lg hlt, t = { u with h := hs, hpc := pc, log := lg, halted := hlt } := by
  cases hi : i.isAccess
  case true =>
    rw [← performAccess_eq_exec s hi] at h
    exact ⟨t, performAccess_cases hi h, t.h, t.hpc, t.log, t.halted, rfl⟩
  case false =>
    have access (w : AccessWord) (f : State → State) (h : afterAccess (performAccess (decodeWord w) s) f = .next t) :
        ∃ u, AccessNext s u ∧ t = f u := by
      rcases performAccess_outcome s (decodeWord_isAccess w) with ⟨c, e⟩ | ⟨u, e, hu⟩
      · rw [e] at h; cases h
      · rw [e] at h; cases h; exact ⟨u, hu, rfl⟩
    cases i
    case harnessWr off v =>
      obtain ⟨u, hu, rfl⟩ := access _ _ h
      exact ⟨u, hu, u.h, _, u.log, u.halted, rfl⟩
    case harnessWrr off n =>
      obtain ⟨u, hu, rfl⟩ := access _ _ h
      exact ⟨u, hu, u.h, _, u.log, u.halted, rfl⟩
    case harnessRd n off =>
      obtain ⟨u, hu, rfl⟩ := access _ _ h
      exact ⟨u, hu, _, _, u.log, u.halted, rfl⟩
    case hostWaitdone =>
      simp only [exec, execHostWaitdone] at h
      split at h <;> cases h
      · exact ⟨s, .same, s.h, _, s.log, s.halted, rfl⟩
      · exact ⟨s, .same, s.h, s.hpc, s.log, s.halted, rfl⟩
    case hostSleep sp =>
      simp only [exec, execHostSleep] at h
      split at h <;> cases h
      · exact ⟨s, .same, s.h, _, s.log, s.halted, rfl⟩
      · exact ⟨s, .same, s.h, s.hpc, s.log, s.halted, rfl⟩
    case harnessBeqz n l =>
      simp only [exec, execHarnessBeqz, State.branch] at h
      split at h <;> cases h <;> exact ⟨s, .same, s.h, _, s.log, s.halted, rfl⟩
    case harnessBnez n l =>
      simp only [exec, execHarnessBnez, State.branch] at h
      split at h <;> cases h <;> exact ⟨s, .same, s.h, _, s.log, s.halted, rfl⟩
    case harnessBeqi n v l =>
      simp only [exec, execHarnessBeqi, State.branch] at h
      split at h <;> cases h <;> exact ⟨s, .same, s.h, _, s.log, s.halted, rfl⟩
    all_goals first
      | (cases ha; done)
      | (cases hi; done)
      | (cases h; exact ⟨s, .same, _, _, _, _, rfl⟩)

/-! ## The bus -/

/-- The state `t` that a bus step can lead to from `s`: the phase it is enabled in, and what it does. -/
inductive BusNext (s : State) : State → Prop where
  | same : BusNext s s
  | addrNack (hp : s.ph = .addr) : BusNext s
      { s.emit [.a s.txn.addressByte false, .p] with ifg := { s.ifg with nackif := true }, ph := .hold }
  | addrWrite (hp : s.ph = .addr) (hd : s.txn.dir = .write) : BusNext s
      { s.emit [.a s.txn.addressByte true] with ifg := { s.ifg with txif := true }, ph := .load }
  | addrRead (hp : s.ph = .addr) (hd : s.txn.dir = .read) : BusNext s
      { s.emit [.a s.txn.addressByte true] with ph := .rxbyte }
  | dataNack (hp : s.ph = .txbyte) : BusNext s
      { s.emit [.d s.txshift false, .p] with ifg := { s.ifg with nackif := true }, ph := .hold }
  | dataMore (hp : s.ph = .txbyte) (hc : s.txn.cursor.toNat < s.txn.len.toNat) : BusNext s
      { s.emit [.d s.txshift true] with ifg := { s.ifg with txif := true }, ph := .load }
  | dataLast (hp : s.ph = .txbyte) (hc : s.txn.len.toNat ≤ s.txn.cursor.toNat) : BusNext s
      { s.emit [.d s.txshift true, .p] with ifg := { s.ifg with stpif := true }, ph := .hold }
  | byte (v : Byte) (hp : s.ph = .rxbyte) : BusNext s
      { s.emit [.r v, .p] with rxshift := v, ifg := { s.ifg with rxif := true, stpif := true }, ph := .hold }

theorem exec_bus_cases {i : Instr} {s t : State} (ha : i.agent = .bus) (h : exec i s = .next t) : BusNext s t := by
  cases i
  case busAddrAck k =>
    simp only [exec, execBusAddrAck] at h
    split at h
    · rename_i hp
      split at h
      · split at h <;> cases h
        · exact .addrWrite hp ‹_›
        · exact .addrRead hp ‹_›
      · cases h; exact .addrNack hp
    · cases h; exact .same
  case busDataAck k =>
    simp only [exec, execBusDataAck] at h
    split at h
    · rename_i hp
      split at h
      · split at h <;> cases h
        · exact .dataMore hp ‹_›
        · exact .dataLast hp (by omega)
      · cases h; exact .dataNack hp
    · cases h; exact .same
  case busRxByte v =>
    simp only [exec, execBusRxByte] at h
    split at h <;> cases h
    · exact .byte v ‹_›
    · exact .same
  all_goals cases ha

/-! ## The engine -/

/-- The state `t` that a service can lead to from `s`: the flag selected, and what the service does. -/
inductive EngineNext (s : State) : State → Prop where
  | same : EngineNext s s
  | rx (hf : s.selectedFlag = some .rx) : EngineNext s
      { s with rxdata := s.rxshift, ifg := { s.ifg with rxif := false } }
  | tx (b : Byte) (hf : s.selectedFlag = some .tx) (hb : s.nextTxByte = some b) : EngineNext s
      { s with txshift := b, txn := { s.txn with cursor := s.txn.cursor + 1 },
               ifg := { s.ifg with txif := false }, ph := .txbyte }
  | nack (hf : s.selectedFlag = some .nack) : EngineNext s
      (State.complete { s with ifg := { s.ifg with nackif := false, stpif := false }, nackseen := true } .nack)
  | stop (hf : s.selectedFlag = some .stop) : EngineNext s
      (State.complete { s with ifg := { s.ifg with stpif := false } } .stop)

theorem exec_engine_cases {i : Instr} {s t : State} (ha : i.agent = .engine) (h : exec i s = .next t) :
    EngineNext s t := by
  cases i
  case engSvcRx =>
    simp only [exec, execEngSvcRx] at h
    split at h <;> cases h
    · exact .rx ‹_›
    · exact .same
  case engSvcTx =>
    simp only [exec, execEngSvcTx] at h
    split at h
    · split at h
      · simp at h
      · cases h; exact .tx _ ‹_› ‹_›
    · cases h; exact .same
  case engSvcNack =>
    simp only [exec, execEngSvcNack] at h
    split at h <;> cases h
    · exact .nack ‹_›
    · exact .same
  case engSvcStop =>
    simp only [exec, execEngSvcStop] at h
    split at h <;> cases h
    · exact .stop ‹_›
    · exact .same
  all_goals cases ha

/-! ## The producers -/

theorem exec_producers_cases {i : Instr} {s t : State} (ha : i.agent = .producers) (h : exec i s = .next t) :
    ∃ m, i = .prodEvIn m ∧ t = s.post m := by
  cases i
  case prodEvIn m => cases h; exact ⟨m, rfl, rfl⟩
  all_goals cases ha

end Sys2Proof.Machine
end

