-- ==== Sys2Proof/Laws/Memory.lean ====
section
/-! SUPPORT. Host memory: a read after a write, and the canonical form that a write keeps. -/

namespace Sys2Proof.Machine

/-- A smaller lower bound is a weaker condition. -/
theorem Memory.wfFrom_mono {lo lo' : Nat} (h : lo' ≤ lo) :
    ∀ {m : List Host.Cell}, Memory.wfFrom lo m = true → Memory.wfFrom lo' m = true
  | [], _ => rfl
  | (k, v) :: m, hm => by
    simp only [Memory.wfFrom, Bool.and_eq_true, decide_eq_true_eq] at hm ⊢
    exact ⟨⟨⟨by omega, hm.1.1.2⟩, hm.1.2⟩, hm.2⟩

/-- Below its lower bound a canonical memory lists nothing. -/
theorem Memory.read_of_lt {lo a : Nat} (h : a < lo) :
    ∀ {m : List Host.Cell}, Memory.wfFrom lo m = true → Memory.read m a = Memory.unlisted
  | [], _ => rfl
  | (k, v) :: m, hm => by
    simp only [Memory.wfFrom, Bool.and_eq_true, decide_eq_true_eq] at hm
    rw [Memory.read, if_neg (by omega)]
    exact Memory.read_of_lt (lo := k + 1) (by omega) hm.2

/-- Reading after a write: the byte written there, the byte before everywhere else. -/
theorem Memory.read_write {lo : Nat} (a : Nat) (b : Byte) (c : Nat) :
    ∀ {m : List Host.Cell}, Memory.wfFrom lo m = true →
      Memory.read (Memory.write m a b) c = if c = a then b else Memory.read m c
  | [], _ => by
    by_cases hc : c = a
    · by_cases hb : b = Memory.unlisted <;> simp [Memory.write, Memory.read, hb, hc]
    · by_cases hb : b = Memory.unlisted <;> simp [Memory.write, Memory.read, hb, hc, Ne.symm hc]
  | (k, v) :: m, hm => by
    simp only [Memory.wfFrom, Bool.and_eq_true, decide_eq_true_eq] at hm
    have ih := Memory.read_write (lo := k + 1) a b c hm.2
    rw [Memory.write]
    split
    · rename_i hk
      rw [Memory.read, ih, Memory.read]
      by_cases hc : c = a
      · subst hc; rw [if_neg (by omega), if_pos rfl, if_pos rfl]
      · rw [if_neg hc, if_neg hc]
    · split
      · rename_i hk
        subst hk
        split
        · rename_i hb
          subst hb
          by_cases hc : c = k
          · subst hc
            rw [if_pos rfl]
            exact Memory.read_of_lt (Nat.lt_succ_self c) hm.2
          · rw [if_neg hc, Memory.read, if_neg (fun e => hc e.symm)]
        · by_cases hc : c = k
          · subst hc; simp [Memory.read]
          · rw [if_neg hc, Memory.read, if_neg (fun e => hc e.symm), Memory.read, if_neg (fun e => hc e.symm)]
      · split
        · rename_i hb
          subst hb
          by_cases hc : c = a
          · subst hc
            rw [if_pos rfl, Memory.read, if_neg (by omega)]
            exact Memory.read_of_lt (by omega) hm.2
          · rw [if_neg hc]
        · by_cases hc : c = a
          · subst hc; simp [Memory.read]
          · rw [if_neg hc, Memory.read, if_neg (fun e => hc e.symm)]

/-- A write keeps the canonical form. -/
theorem Memory.wfFrom_write {a : Nat} (b : Byte) (ha : a < 0x10000) :
    ∀ {m : List Host.Cell} {lo : Nat}, lo ≤ a → Memory.wfFrom lo m = true →
      Memory.wfFrom lo (Memory.write m a b) = true
  | [], lo, hlo, _ => by
    by_cases hb : b = Memory.unlisted <;> simp [Memory.write, Memory.wfFrom, hb, hlo, ha]
  | (k, v) :: m, lo, hlo, hm => by
    simp only [Memory.wfFrom, Bool.and_eq_true, decide_eq_true_eq] at hm
    obtain ⟨⟨⟨h1, h2⟩, h3⟩, h4⟩ := hm
    rw [Memory.write]
    split
    · rename_i hk
      have ih := Memory.wfFrom_write b ha (m := m) (lo := k + 1) hk h4
      simp only [Memory.wfFrom, h3, ih, Bool.and_true, Bool.and_eq_true, decide_eq_true_eq]
      exact ⟨h1, h2⟩
    · split
      · rename_i hk
        subst hk
        split
        · exact Memory.wfFrom_mono (by omega) h4
        · rename_i hb
          simp [Memory.wfFrom, h1, h2, h4, hb]
      · split
        · simp only [Memory.wfFrom, h3, h4, Bool.and_true, Bool.and_eq_true, decide_eq_true_eq]
          exact ⟨h1, h2⟩
        · rename_i hb
          have hk : a + 1 ≤ k := by omega
          have hb' : (b != Memory.unlisted) = true := by simp [hb]
          simp only [Memory.wfFrom, h3, h4, hb', Bool.and_true, Bool.and_eq_true, decide_eq_true_eq]
          exact ⟨⟨hlo, ha⟩, hk, h2⟩

/-- Every store to host memory keeps the canonical form. -/
theorem State.wf_storeByte (s : State) (a : HostAddr) (b : Byte) (h : Memory.wf s.mem = true) :
    Memory.wf (s.storeByte a b).mem = true :=
  Memory.wfFrom_write b a.isLt (Nat.zero_le _) h

/-- A read of host memory after a store. -/
theorem State.byteAt_storeByte (s : State) (a c : HostAddr) (b : Byte) (h : Memory.wf s.mem = true) :
    (s.storeByte a b).byteAt c = if c = a then b else s.byteAt c := by
  have := Memory.read_write a.toNat b c.toNat h
  simp only [State.byteAt, State.storeByte, this, BitVec.toNat_inj]

/-- Reset memory is in canonical form. -/
theorem State.reset_mem_wf : Memory.wf State.reset.mem = true := rfl

end Sys2Proof.Machine
end

