-- ==== Sys2Proof/Laws/PerInstr.lean ====
section
/-! SUPPORT. Facts said of every instruction, one lemma for each constructor: the word of an instruction decodes to it. -/

namespace Sys2Proof.Laws.RoundTrip

/-- If the instruction has an access word, that word decodes to it, with every operand. -/
def Statement (i : Instr) : Prop := ∀ w, encodeWord i = some w → decodeWord w = i

theorem i2cNop : Statement .i2cNop := by
  rintro w ⟨⟩
  simp [writeWord, decodeFields, decodeCommand]

theorem i2cInit : Statement .i2cInit := by
  rintro w ⟨⟩
  simp [writeWord, decodeFields, decodeCommand]

theorem i2cWrite : Statement .i2cWrite := by
  rintro w ⟨⟩
  simp [writeWord, decodeFields, decodeCommand]

theorem i2cReadreg : Statement .i2cReadreg := by
  rintro w ⟨⟩
  simp [writeWord, decodeFields, decodeCommand]

theorem ctrlReserved0407 (d : BitVec 2) : Statement (.ctrlReserved0407 d) := by
  rintro w ⟨⟩
  simp only [writeWord, decodeWord_accessWord]
  revert d
  decide

theorem ctrlReserved080F (d : BitVec 3) : Statement (.ctrlReserved080F d) := by
  rintro w ⟨⟩
  simp only [writeWord, decodeWord_accessWord]
  revert d
  decide

theorem ctrlReserved101F (d : BitVec 4) : Statement (.ctrlReserved101F d) := by
  rintro w ⟨⟩
  simp only [writeWord, decodeWord_accessWord]
  revert d
  decide

theorem ctrlReserved203F (d : BitVec 5) : Statement (.ctrlReserved203F d) := by
  rintro w ⟨⟩
  simp only [writeWord, decodeWord_accessWord]
  revert d
  decide

theorem ctrlReserved407F (d : BitVec 6) : Statement (.ctrlReserved407F d) := by
  rintro w ⟨⟩
  simp only [writeWord, decodeWord_accessWord]
  revert d
  decide

theorem ctrlReserved80FF (d : BitVec 7) : Statement (.ctrlReserved80FF d) := by
  rintro w ⟨⟩
  simp only [writeWord, decodeWord_accessWord]
  revert d
  decide

theorem wrStatus (v : Byte) : Statement (.wrStatus v) := by
  rintro w ⟨⟩
  simp [writeWord, decodeFields]

theorem wrSaddr (v : Byte) : Statement (.wrSaddr v) := by
  rintro w ⟨⟩
  simp [writeWord, decodeFields]

theorem wrLen (v : Byte) : Statement (.wrLen v) := by
  rintro w ⟨⟩
  simp [writeWord, decodeFields]

theorem wrBufl (v : Byte) : Statement (.wrBufl v) := by
  rintro w ⟨⟩
  simp [writeWord, decodeFields]

theorem wrBufh (v : Byte) : Statement (.wrBufh v) := by
  rintro w ⟨⟩
  simp [writeWord, decodeFields]

theorem wrRegidx (v : Byte) : Statement (.wrRegidx v) := by
  rintro w ⟨⟩
  simp [writeWord, decodeFields]

theorem wrRxdata (v : Byte) : Statement (.wrRxdata v) := by
  rintro w ⟨⟩
  simp [writeWord, decodeFields]

theorem wrClkdiv (v : Byte) : Statement (.wrClkdiv v) := by
  rintro w ⟨⟩
  simp [writeWord, decodeFields]

theorem wrCfg (v : Byte) : Statement (.wrCfg v) := by
  rintro w ⟨⟩
  simp [writeWord, decodeFields]

theorem wrIfg (v : Byte) : Statement (.wrIfg v) := by
  rintro w ⟨⟩
  simp [writeWord, decodeFields]

theorem wrEvbits (v : Byte) : Statement (.wrEvbits v) := by
  rintro w ⟨⟩
  simp [writeWord, decodeFields]

theorem evPost (v : Byte) : Statement (.evPost v) := by
  rintro w ⟨⟩
  simp [writeWord, decodeFields]

theorem wrEvtake (v : Byte) : Statement (.wrEvtake v) := by
  rintro w ⟨⟩
  simp [writeWord, decodeFields]

theorem rdCtrl (x : Byte) : Statement (.rdCtrl x) := by
  rintro w ⟨⟩
  simp [readWord, decodeFields]

theorem rdStatus (x : Byte) : Statement (.rdStatus x) := by
  rintro w ⟨⟩
  simp [readWord, decodeFields]

theorem rdSaddr (x : Byte) : Statement (.rdSaddr x) := by
  rintro w ⟨⟩
  simp [readWord, decodeFields]

theorem rdLen (x : Byte) : Statement (.rdLen x) := by
  rintro w ⟨⟩
  simp [readWord, decodeFields]

theorem rdBufl (x : Byte) : Statement (.rdBufl x) := by
  rintro w ⟨⟩
  simp [readWord, decodeFields]

theorem rdBufh (x : Byte) : Statement (.rdBufh x) := by
  rintro w ⟨⟩
  simp [readWord, decodeFields]

theorem rdRegidx (x : Byte) : Statement (.rdRegidx x) := by
  rintro w ⟨⟩
  simp [readWord, decodeFields]

theorem rdRxdata (x : Byte) : Statement (.rdRxdata x) := by
  rintro w ⟨⟩
  simp [readWord, decodeFields]

theorem rdClkdiv (x : Byte) : Statement (.rdClkdiv x) := by
  rintro w ⟨⟩
  simp [readWord, decodeFields]

theorem rdCfg (x : Byte) : Statement (.rdCfg x) := by
  rintro w ⟨⟩
  simp [readWord, decodeFields]

theorem rdIfg (x : Byte) : Statement (.rdIfg x) := by
  rintro w ⟨⟩
  simp [readWord, decodeFields]

theorem rdEvbits (x : Byte) : Statement (.rdEvbits x) := by
  rintro w ⟨⟩
  simp [readWord, decodeFields]

theorem rdEvset (x : Byte) : Statement (.rdEvset x) := by
  rintro w ⟨⟩
  simp [readWord, decodeFields]

theorem evTake (x : Byte) : Statement (.evTake x) := by
  rintro w ⟨⟩
  simp [readWord, decodeFields]

theorem offReserved (write odd : Bool) (x : Byte) : Statement (.offReserved write odd x) := by
  rintro w ⟨⟩
  cases write <;> cases odd <;> simp [decodeFields]

theorem busAddrAck (k : Bool) : Statement (.busAddrAck k) := by rintro w ⟨⟩

theorem busDataAck (k : Bool) : Statement (.busDataAck k) := by rintro w ⟨⟩

theorem busRxByte (v : Byte) : Statement (.busRxByte v) := by rintro w ⟨⟩

theorem engSvcRx : Statement .engSvcRx := by rintro w ⟨⟩

theorem engSvcTx : Statement .engSvcTx := by rintro w ⟨⟩

theorem engSvcNack : Statement .engSvcNack := by rintro w ⟨⟩

theorem engSvcStop : Statement .engSvcStop := by rintro w ⟨⟩

theorem prodEvIn (m : BitVec 4) : Statement (.prodEvIn m) := by rintro w ⟨⟩

theorem hostWaitdone : Statement .hostWaitdone := by rintro w ⟨⟩

theorem hostSleep (spurious : Bool) : Statement (.hostSleep spurious) := by rintro w ⟨⟩

theorem harnessLi (n : HReg) (imm : Byte) : Statement (.harnessLi n imm) := by rintro w ⟨⟩

theorem harnessWr (off : Offset) (imm : Byte) : Statement (.harnessWr off imm) := by rintro w ⟨⟩

theorem harnessWrr (off : Offset) (n : HReg) : Statement (.harnessWrr off n) := by rintro w ⟨⟩

theorem harnessRd (n : HReg) (off : Offset) : Statement (.harnessRd n off) := by rintro w ⟨⟩

theorem harnessAddi (n : HReg) (imm : Byte) : Statement (.harnessAddi n imm) := by rintro w ⟨⟩

theorem harnessAndi (n : HReg) (imm : Byte) : Statement (.harnessAndi n imm) := by rintro w ⟨⟩

theorem harnessBeqz (n : HReg) (l : Nat) : Statement (.harnessBeqz n l) := by rintro w ⟨⟩

theorem harnessBnez (n : HReg) (l : Nat) : Statement (.harnessBnez n l) := by rintro w ⟨⟩

theorem harnessBeqi (n : HReg) (imm : Byte) (l : Nat) : Statement (.harnessBeqi n imm l) := by rintro w ⟨⟩

theorem harnessJmp (l : Nat) : Statement (.harnessJmp l) := by rintro w ⟨⟩

theorem harnessLog (n : HReg) : Statement (.harnessLog n) := by rintro w ⟨⟩

theorem harnessHalt : Statement .harnessHalt := by rintro w ⟨⟩

end Sys2Proof.Laws.RoundTrip
end

