-- ==== Sys2Proof/Laws/Program.lean ====
section
/-! SUPPORT. Laws of programs that wait after each command: how the property is built, and what it says at an index. -/

namespace Sys2Proof

@[simp] theorem commandsAreWaitedFor_nil : commandsAreWaitedFor [] = true := rfl

theorem commandsAreWaitedFor_cons {st : Stmt} {p : List Stmt} :
    commandsAreWaitedFor (st :: p) = true ↔
      (st.mayStart = true → p.head? = some .waitdone) ∧ commandsAreWaitedFor p = true := by
  cases h : st.mayStart <;> simp [commandsAreWaitedFor, h]

/-- Two such programs, one after the other, are one. -/
theorem commandsAreWaitedFor_append : ∀ {p q : List Stmt}, commandsAreWaitedFor p = true →
    commandsAreWaitedFor q = true → commandsAreWaitedFor (p ++ q) = true
  | [], _, _, hq => hq
  | st :: p, q, hp, hq => by
    rw [commandsAreWaitedFor_cons] at hp
    rw [List.cons_append, commandsAreWaitedFor_cons]
    refine ⟨fun h => ?_, commandsAreWaitedFor_append hp.2 hq⟩
    have hw := hp.1 h
    cases p with
    | nil => simp at hw
    | cons a p => simpa using hw

/-- The statement after one that can start a transaction. -/
theorem waitdone_after : ∀ {p : List Stmt} {i : Nat} {st : Stmt}, commandsAreWaitedFor p = true → p[i]? = some st →
    st.mayStart = true → p[i + 1]? = some .waitdone
  | [], _, _, _, h, _ => by simp at h
  | a :: p, 0, st, hp, h, hm => by
    obtain rfl : a = st := by simpa using h
    simpa [List.head?_eq_getElem?] using (commandsAreWaitedFor_cons.1 hp).1 hm
  | a :: p, i + 1, st, hp, h, hm => by
    simpa using waitdone_after (commandsAreWaitedFor_cons.1 hp).2 (by simpa using h) hm

end Sys2Proof
end

