-- ==== Sys2Proof/Laws/Step.lean ====
section
/-! SUPPORT. What a step can do: the turn it takes, and the instruction or idle turn that comes of it. -/

namespace Sys2Proof.Machine

/-! ## The next turn -/

theorem nextTurn_cons {s : State} {t : Turn} {ts : List Turn} (h : s.agenda = t :: ts) :
    nextTurn s = (t, { s with agenda := ts }) := by simp [nextTurn, h]

theorem nextTurn_nil {s : State} (h : s.agenda = []) :
    nextTurn s = (Config.freeTurn s.turns, { s with turns := s.turns + 1 }) := by simp [nextTurn, h]

/-- Taking a turn changes the schedule only: `agenda` or `turns`. -/
theorem nextTurn_frame (s : State) : ∃ ts n, (nextTurn s).2 = { s with agenda := ts, turns := n } := by
  unfold nextTurn
  split
  · exact ⟨_, s.turns, rfl⟩
  · exact ⟨s.agenda, _, rfl⟩

/-! ## The step, by what its turn comes to -/

theorem step_run {s : State} {t : Turn} {u : State} {i : Instr} (hn : nextTurn s = (t, u))
    (ha : turnAction t u = .run i) : step s = exec i u := by simp [step, hn, ha]

theorem step_settle {s : State} {t : Turn} {u v : State} (hn : nextTurn s = (t, u))
    (ha : turnAction t u = .settle v) : step s = .next v := by simp [step, hn, ha]

theorem step_raise {s : State} {t : Turn} {u : State} {c : FaultCode} (hn : nextTurn s = (t, u))
    (ha : turnAction t u = .raise c) : step s = raise c u := by simp [step, hn, ha]

/-- The inversion lemma of a step that answers a state: it executed an instruction, or its turn settled. -/
theorem step_cases {s v : State} (h : step s = .next v) :
    (∃ i, turnAction (nextTurn s).1 (nextTurn s).2 = .run i ∧ exec i (nextTurn s).2 = .next v) ∨
    turnAction (nextTurn s).1 (nextTurn s).2 = .settle v := by
  unfold step at h
  rcases hn : nextTurn s with ⟨t, u⟩
  simp only [hn] at h ⊢
  cases ha : turnAction t u with
  | run i => simp only [ha] at h; exact .inl ⟨i, rfl, h⟩
  | settle w => simp only [ha, Host.Outcome.next.injEq] at h; subst h; exact .inr rfl
  | raise c => simp [ha] at h
  | stopped => simp [ha] at h

/-- A turn with no fault recorded is an agent's turn. -/
theorem turnAction_of_noFault {t : Turn} {s : State} (h : s.faults = []) : turnAction t s = agentAction t s := by
  simp [turnAction, h]

/-- A step with no fault recorded and a turn that comes to an instruction. -/
theorem step_agent_run {s : State} {t : Turn} {ts : List Turn} {i : Instr} (hf : s.faults = [])
    (h : s.agenda = t :: ts) (ha : agentAction t { s with agenda := ts } = .run i) :
    step s = exec i { s with agenda := ts } :=
  step_run (nextTurn_cons h) ((turnAction_of_noFault (s := { s with agenda := ts }) hf).trans ha)

/-- A step with no fault recorded and a turn that settles. -/
theorem step_agent_settle {s v : State} {t : Turn} {ts : List Turn} (hf : s.faults = [])
    (h : s.agenda = t :: ts) (ha : agentAction t { s with agenda := ts } = .settle v) : step s = .next v :=
  step_settle (nextTurn_cons h) ((turnAction_of_noFault (s := { s with agenda := ts }) hf).trans ha)

/-- Which turns can settle, and where: an idle turn, a store to host memory, power-on reset. -/
theorem agentAction_settle {t : Turn} {s v : State} (h : agentAction t s = .settle v) :
    v = s ∨ (∃ a b, t = .store a b ∧ v = s.storeByte a b) ∨ (t = .powerOn ∧ v = s.powerOn) := by
  cases t with
  | access w a => simp only [agentAction, accessAction] at h; split at h <;> cases h
  | mapped a w wr d =>
    simp only [agentAction, mappedAction, accessAction] at h
    split at h
    · split at h <;> cases h
    · split at h <;> cases h
      exact .inl rfl
  | host sp =>
    simp only [agentAction, hostAction] at h
    split at h
    · cases h; exact .inl rfl
    · split at h <;> cases h
  | bus k v => simp only [agentAction, busAction] at h; split at h <;> cases h <;> exact .inl rfl
  | engine => simp only [agentAction, engineAction] at h; split at h <;> (cases h; try exact .inl rfl)
  | producer m =>
    simp only [agentAction, producerAction] at h
    split at h
    · cases h; exact .inl rfl
    · cases h
  | store a b => cases h; exact .inr (.inl ⟨a, b, rfl, rfl⟩)
  | powerOn => cases h; exact .inr (.inr ⟨rfl, rfl⟩)

/-! ## Runs -/

/-- One step and then the rest of a run. -/
theorem run_succ {s t : State} (k : Nat) (h : step s = .next t) :
    Host.Core.run Sys2Proof.core (k + 1) s = Host.Core.run Sys2Proof.core k t := by
  have h' : Sys2Proof.core.step s = .next t := h
  simp only [Host.Core.run, h']

/-- A run whose first turn comes to an instruction that answers a state. -/
theorem run_turn {s u : State} {t : Turn} {ts : List Turn} {i : Instr} (k : Nat) (hf : s.faults = [])
    (h : s.agenda = t :: ts) (ha : agentAction t { s with agenda := ts } = .run i)
    (he : exec i { s with agenda := ts } = .next u) :
    Host.Core.run Sys2Proof.core (k + 1) s = Host.Core.run Sys2Proof.core k u :=
  run_succ k ((step_agent_run hf h ha).trans he)

/-- A run whose first turn settles. -/
theorem run_settle {s u : State} {t : Turn} {ts : List Turn} (k : Nat) (hf : s.faults = [])
    (h : s.agenda = t :: ts) (ha : agentAction t { s with agenda := ts } = .settle u) :
    Host.Core.run Sys2Proof.core (k + 1) s = Host.Core.run Sys2Proof.core k u :=
  run_succ k (step_agent_settle hf h ha)

end Sys2Proof.Machine
end

