-- ==== Sys2Proof/Tests/Slice0.lean ====
section
/-! SUPPORT. Tests. Each is one step, or one decoding. Expected results are the rows of 95_test_vectors.md (V, C, B, A,
H numbers in the names), the examples of the rules, or words written out from the encodings of 30_encoding.md; the
witnesses meet the hypotheses of the obligations. -/

open Sys2Proof Sys2Proof.Machine

namespace Sys2Proof.Tests

/-! ## States of the tests -/

/-- After INIT, idle: BASE = 0x4000, MEMWIN = 0x0200 to 0x0202, P_CLKDIV = 0x10, `Mem[0x0200..0x0202] = 06 00 01`. -/
def idle : State :=
  { State.reset with
    cfg := .afterInit, clkdiv := 0x10, par := ⟨0x4000, [⟨0x0200, 0x0202⟩], 0x10⟩,
    mem := [(0x0200, 0x06), (0x0202, 0x01)], saddr := 0x40, len := 3, bufl := 0x00, bufh := 0x02, regidx := 0x12 }

/-- A WRITE is outstanding, in phase `ph` with flags `f` and cursor `c`. -/
def writing (ph : Phase) (f : Ifg) (c : Byte) : State :=
  { idle with busy := true, ph := ph, ifg := f, txn := ⟨.write, .w, 0x40, .write, .mem, 0x0200, 0x00, 3, c⟩ }

/-- A READREG is outstanding in stage W. -/
def indexing (ph : Phase) (f : Ifg) (c : Byte) : State :=
  { idle with busy := true, ph := ph, ifg := f, txn := ⟨.readreg, .w, 0x29, .write, .reg, 0x0000, 0x12, 1, c⟩ }

/-- A READREG is outstanding in stage R. -/
def reading (ph : Phase) (f : Ifg) : State :=
  { idle with busy := true, ph := ph, ifg := f, txn := ⟨.readreg, .r, 0x29, .read, .reg, 0x0000, 0x12, 1, 0⟩ }

/-- TXIF, NACKIF, STPIF alone, and RXIF with STPIF. -/
def tx : Ifg := ⟨false, true, false, false⟩
def nack : Ifg := ⟨false, false, false, true⟩
def stop : Ifg := ⟨false, false, true, false⟩
def rxStop : Ifg := ⟨true, false, true, false⟩

/-- The result is a next state with the property. -/
def nextHas (r : Result) (p : State → Bool) : Bool :=
  match r with
  | .next t => p t
  | .fault _ => false
  | .refused _ => false

/-- The result is a fault with this code, and the state at it has the code alone in FAULT, and the property. -/
def faultHas (r : Result) (c : FaultCode) (p : State → Bool) : Bool :=
  match r with
  | .next _ => false
  | .fault (.raised d t) => d == c && t.faults == [c] && p t
  | .refused _ => false

/-! ## Well-formedness: the one check, a producer's step with no line -/

theorem test_prodEvIn_of_no_line_is_ill_formed : Instr.wellFormed (.prodEvIn 0b0000) = false := by decide

theorem test_prodEvIn_of_a_line_is_well_formed : Instr.wellFormed (.prodEvIn 0b1000) = true := by decide

/-! ## Decoding -/

/-- R82. -/
theorem test_commands_decode :
    decodeWord 0b1000000000000 = .i2cNop ∧ decodeWord 0b1000000000001 = .i2cInit ∧
    decodeWord 0b1000000000010 = .i2cWrite ∧ decodeWord 0b1000000000011 = .i2cReadreg := by decide

/-- R83: both ends of every reserved row. -/
theorem test_reserved_commands_decode :
    decodeWord 0x1004 = .ctrlReserved0407 0 ∧ decodeWord 0x1007 = .ctrlReserved0407 3 ∧
    decodeWord 0x1008 = .ctrlReserved080F 0 ∧ decodeWord 0x100F = .ctrlReserved080F 7 ∧
    decodeWord 0x1010 = .ctrlReserved101F 0 ∧ decodeWord 0x101F = .ctrlReserved101F 0xF ∧
    decodeWord 0x1020 = .ctrlReserved203F 0 ∧ decodeWord 0x103F = .ctrlReserved203F 0x1F ∧
    decodeWord 0x1040 = .ctrlReserved407F 0 ∧ decodeWord 0x107F = .ctrlReserved407F 0x3F ∧
    decodeWord 0x1080 = .ctrlReserved80FF 0 ∧ decodeWord 0x10FF = .ctrlReserved80FF 0x7F := by decide

/-- R81, the write column. -/
theorem test_writes_decode :
    decodeWord 0x11A5 = .wrStatus 0xA5 ∧ decodeWord 0x12A5 = .wrSaddr 0xA5 ∧ decodeWord 0x13A5 = .wrLen 0xA5 ∧
    decodeWord 0x14A5 = .wrBufl 0xA5 ∧ decodeWord 0x15A5 = .wrBufh 0xA5 ∧ decodeWord 0x16A5 = .wrRegidx 0xA5 ∧
    decodeWord 0x17A5 = .wrRxdata 0xA5 ∧ decodeWord 0x18A5 = .wrClkdiv 0xA5 ∧ decodeWord 0x19A5 = .wrCfg 0xA5 ∧
    decodeWord 0x1AA5 = .wrIfg 0xA5 ∧ decodeWord 0x1BA5 = .wrEvbits 0xA5 ∧ decodeWord 0x1CA5 = .evPost 0xA5 ∧
    decodeWord 0x1DA5 = .wrEvtake 0xA5 := by decide

/-- R81, the read column. -/
theorem test_reads_decode :
    decodeWord 0x0000 = .rdCtrl 0 ∧ decodeWord 0x0100 = .rdStatus 0 ∧ decodeWord 0x0200 = .rdSaddr 0 ∧
    decodeWord 0x0300 = .rdLen 0 ∧ decodeWord 0x0400 = .rdBufl 0 ∧ decodeWord 0x0500 = .rdBufh 0 ∧
    decodeWord 0x0600 = .rdRegidx 0 ∧ decodeWord 0x0700 = .rdRxdata 0 ∧ decodeWord 0x0800 = .rdClkdiv 0 ∧
    decodeWord 0x0900 = .rdCfg 0 ∧ decodeWord 0x0A00 = .rdIfg 0 ∧ decodeWord 0x0B00 = .rdEvbits 0 ∧
    decodeWord 0x0C00 = .rdEvset 0 ∧ decodeWord 0x0D00 = .evTake 0 := by decide

/-- R84. -/
theorem test_reserved_offsets_decode :
    decodeWord 0x0E00 = .offReserved false false 0 ∧ decodeWord 0x0F00 = .offReserved false true 0 ∧
    decodeWord 0x1E00 = .offReserved true false 0 ∧ decodeWord 0x1F12 = .offReserved true true 0x12 := by decide

/-- The byte layout of notes/assumptions/10.md. -/
theorem test_two_bytes_decode :
    decode [0x40, 0x12] = .instr (.wrSaddr 0x40) [] ∧ decode [0x40] = .error .tooShort ∧
    decode [] = .error .tooShort ∧ decode [0x00, 0x20] = .error .notAccessWord := by decide

theorem test_table_word_decodes :
    decodeTableWord 16 0x1240 = some (.wrSaddr 0x40) ∧ decodeTableWord 16 0x2000 = none := by decide

/-! ## Commands -/

theorem test_C17_nop_while_busy :
    nextHas (exec .i2cNop (writing .addr .none 0)) (fun t => t == writing .addr .none 0) := by decide

theorem test_C1_init_after_reset :
    nextHas (exec .i2cInit { State.reset with par := ⟨0, [], 0x10⟩ })
      (fun t => t.cfg.toByte == 0xF7 && t.clkdiv == 0x10 && t.statusByte == 0x00) := by decide

theorem test_C3_init_while_busy :
    faultHas (exec .i2cInit (writing .addr .none 0)) .cmdBusy (fun t => t.busy) := by decide

theorem test_C15_write :
    nextHas (exec .i2cWrite { idle with done := true, cause := .nack, nackseen := true }) (fun t =>
      t.txn == ⟨.write, .w, 0x40, .write, .mem, 0x0200, 0, 3, 0⟩ && t.statusByte == 0x02 &&
      t.trace == [.s] && t.ph == .addr) := by decide

theorem test_C12_C13_C14_buffer_ranges :
    faultHas (exec .i2cWrite { idle with bufl := 0xFF, bufh := 0xFF, len := 2 }) .bufRange (fun t => t.trace == []) ∧
    nextHas (exec .i2cWrite { idle with bufl := 0x01, bufh := 0xFF, len := 0xFF }) (fun t => t.txn.buf == 0xFF01) ∧
    faultHas (exec .i2cWrite { idle with bufl := 0x02, bufh := 0xFF, len := 0xFF }) .bufRange (fun _ => true) := by decide

theorem test_C16_readreg :
    nextHas (exec .i2cReadreg { idle with saddr := 0x29, len := 0 }) (fun t =>
      t.txn == ⟨.readreg, .w, 0x29, .write, .reg, 0, 0x12, 1, 0⟩ && t.statusByte == 0x02 &&
      t.trace == [.s]) := by decide

theorem test_C5_readreg_before_init :
    faultHas (exec .i2cReadreg State.reset) .notInit (fun t => t.ph == .idle) := by decide

theorem test_C9_reserved_command_while_busy :
    faultHas (exec (decodeWord 0x1004) (writing .addr .none 0)) .reservedCmd (fun _ => true) := by decide

theorem test_C10_reserved_commands :
    faultHas (exec (.ctrlReserved080F 0) idle) .reservedCmd (fun _ => true) ∧
    faultHas (exec (.ctrlReserved101F 0) idle) .reservedCmd (fun _ => true) ∧
    faultHas (exec (.ctrlReserved203F 0) idle) .reservedCmd (fun _ => true) ∧
    faultHas (exec (.ctrlReserved407F 0) idle) .reservedCmd (fun _ => true) ∧
    faultHas (exec (.ctrlReserved80FF 0x7F) idle) .reservedCmd (fun _ => true) := by decide

/-! ## Plain register accesses -/

theorem test_A1_saddr_drops_bit_7 : nextHas (exec (.wrSaddr 0xFF) idle) (fun t => t.saddr == 0x7F) := by decide

theorem test_C19_len_write_while_busy :
    nextHas (exec (.wrLen 0x00) (writing .addr .none 0)) (fun t => t.len == 0x00 && t.txn.len == 3) := by decide

theorem test_R172_R173_buffer_halves :
    nextHas (exec (.wrBufl 0x34) idle) (fun t => t.bufRef == 0x0234) ∧
    nextHas (exec (.wrBufh 0x12) idle) (fun t => t.bufRef == 0x1200) := by decide

theorem test_R174_regidx :
    nextHas (exec (.wrRegidx 0x77) idle) (fun t => t.regidx == 0x77 && t.saddr == 0x40) := by decide

theorem test_A5_status_write_is_ignored :
    nextHas (exec (.wrStatus 0x00) { idle with done := true, cause := .stop }) (fun t =>
      t.statusByte == 0x05) := by decide

theorem test_A6_rxdata_write_is_ignored :
    nextHas (exec (.wrRxdata 0xAA) { idle with rxdata := 0x5A }) (fun t => t.rxdata == 0x5A) := by decide

theorem test_R189_clkdiv_write_is_ignored :
    nextHas (exec (.wrClkdiv 0x20) idle) (fun t => t.clkdiv == 0x10) := by decide

theorem test_A7_cfg_write_is_ignored : nextHas (exec (.wrCfg 0x00) idle) (fun t => t.cfg.toByte == 0xF7) := by decide

theorem test_A8_ifg_write_is_ignored : nextHas (exec (.wrIfg 0x0F) idle) (fun t => t.ifg.toByte == 0x00) := by decide

theorem test_V12_evbits_write_is_ignored :
    nextHas (exec (.wrEvbits 0x00) { idle with evbits := 0b1001 }) (fun t => t.evbits == 0b1001) := by decide

theorem test_V13_evtake_write_is_ignored :
    nextHas (exec (.wrEvtake 0x00) { idle with evbits := 0b1000 }) (fun t => t.evbits == 0b1000) := by decide

theorem test_A3_ctrl_reads_zero :
    nextHas (exec (.rdCtrl 0xFF) { idle with rdata := 0x99 }) (fun t => t.rdata == 0x00 && !t.busy) := by decide

theorem test_R176_status :
    nextHas (exec (.rdStatus 0) { idle with done := true, cause := .stop, evbits := 0b0001 }) (fun t =>
      t.rdata == 0x25 && t.done) := by decide

theorem test_status_of_a_nacked_command :
    nextHas (exec (.rdStatus 0) { idle with done := true, cause := .nack, nackseen := true }) (fun t =>
      t.rdata == 0x19) := by decide

theorem test_A2_saddr_reads_bit_7_as_zero :
    nextHas (exec (.rdSaddr 0) { idle with saddr := 0x7F }) (fun t => t.rdata == 0x7F) := by decide

theorem test_A15_len_is_not_the_progress :
    nextHas (exec (.rdLen 0) (writing .load tx 2)) (fun t => t.rdata == 0x03) := by decide

theorem test_R179_R180_buffer_reads :
    nextHas (exec (.rdBufl 0) { idle with bufl := 0x34 }) (fun t => t.rdata == 0x34) ∧
    nextHas (exec (.rdBufh 0) { idle with bufh := 0x12 }) (fun t => t.rdata == 0x12) := by decide

theorem test_R181_regidx_read : nextHas (exec (.rdRegidx 0) idle) (fun t => t.rdata == 0x12) := by decide

theorem test_R182_rxdata_read :
    nextHas (exec (.rdRxdata 0) { idle with rxdata := 0x5A }) (fun t =>
      t.rdata == 0x5A && t.rxdata == 0x5A) := by decide

theorem test_R183_clkdiv_read : nextHas (exec (.rdClkdiv 0) idle) (fun t => t.rdata == 0x10) := by decide

theorem test_A9_cfg_read : nextHas (exec (.rdCfg 0) idle) (fun t => t.rdata == 0xF7) := by decide

theorem test_A10_ifg_read :
    nextHas (exec (.rdIfg 0) (reading .hold rxStop)) (fun t => t.rdata == 0x05 && t.ifg == rxStop) := by decide

theorem test_A4_evset_reads_zero :
    nextHas (exec (.rdEvset 0) { idle with evbits := 0b0110, rdata := 0x99 }) (fun t =>
      t.rdata == 0x00 && t.evbits == 0b0110) := by decide

theorem test_A11_read_of_a_reserved_offset :
    faultHas (exec (.offReserved false false 0) { idle with rdata := 0x99 }) .reservedOff (fun t =>
      t.rdata == 0x99) := by decide

theorem test_A12_write_of_a_reserved_offset :
    faultHas (exec (decodeWord 0x1F12) idle) .reservedOff (fun _ => true) := by decide

/-! ## EventChannel -/

theorem test_V6_post_drops_the_high_bits :
    nextHas (exec (.evPost 0xFA) { idle with evbits := 0b0101 }) (fun t => t.evbits == 0b1111) := by decide

theorem test_V3_posts_coalesce :
    nextHas (exec (.evPost 0x08) { idle with evbits := 0b1000 }) (fun t => t.evbits == 0b1000) := by decide

theorem test_V8_producer_post :
    nextHas (exec (.prodEvIn 0b0100) { idle with evbits := 0b0001 }) (fun t => t.evbits == 0b0101) := by decide

/-- Section 2.1 of 95_test_vectors.md, every EVBITS value. -/
theorem test_take_table :
    (List.range 16).map (fun v => (takenByte (BitVec.ofNat 4 v)).toNat) =
      [0x00, 0x80, 0x81, 0x81, 0x82, 0x82, 0x82, 0x82, 0x83, 0x83, 0x83, 0x83, 0x83, 0x83, 0x83, 0x83] ∧
    (List.range 16).map (fun v => (takenRest (BitVec.ofNat 4 v)).toNat) =
      [0, 0, 0, 1, 0, 1, 2, 3, 0, 1, 2, 3, 4, 5, 6, 7] := by decide

theorem test_S2_object_detected_is_taken_first :
    nextHas (exec (.evTake 0) { idle with evbits := 0b1001 }) (fun t =>
      t.rdata == 0x83 && t.evbits == 0b0001) := by decide

theorem test_V14_evbits_read :
    nextHas (exec (.rdEvbits 0) { idle with evbits := 0b0110 }) (fun t =>
      t.rdata == 0x06 && t.evbits == 0b0110) := by decide

/-! ## The bus -/

theorem test_B1_address_acked :
    nextHas (exec (.busAddrAck true) (writing .addr .none 0)) (fun t =>
      t.trace == [.a 0x80 true] && t.ifg.toByte == 0x02 && t.ph == .load) := by decide

theorem test_B2_address_nacked :
    nextHas (exec (.busAddrAck false) (writing .addr .none 0)) (fun t =>
      t.trace == [.a 0x80 false, .p] && t.ifg.toByte == 0x08 && t.ph == .hold) := by decide

theorem test_B9_last_byte_acked :
    nextHas (exec (.busDataAck true) { writing .txbyte .none 3 with txshift := 0x01 }) (fun t =>
      t.trace == [.d 0x01 true, .p] && t.ifg.toByte == 0x04 && t.ph == .hold) := by decide

theorem test_B10_last_byte_nacked :
    nextHas (exec (.busDataAck false) { writing .txbyte .none 3 with txshift := 0x01 }) (fun t =>
      t.trace == [.d 0x01 false, .p] && t.ifg.toByte == 0x08 && t.ph == .hold) := by decide

theorem test_B12_received_byte :
    nextHas (exec (.busRxByte 0x5A) (reading .rxbyte .none)) (fun t =>
      t.trace == [.r 0x5A, .p] && t.rxshift == 0x5A && t.ifg.toByte == 0x05 && t.ph == .hold) := by decide

/-! ## The engine -/

theorem test_B13_receive_service :
    nextHas (exec .engSvcRx { reading .hold rxStop with rxshift := 0x5A }) (fun t =>
      t.rxdata == 0x5A && t.ifg.toByte == 0x04 && t.ph == .hold) := by decide

theorem test_B5_transmit_service :
    nextHas (exec .engSvcTx (writing .load tx 0)) (fun t =>
      t.txshift == 0x06 && t.txn.cursor == 1 && t.ifg.toByte == 0x00 && t.ph == .txbyte) := by decide

theorem test_B7_transmit_outside_memwin :
    faultHas (exec .engSvcTx { writing .load tx 1 with par := ⟨0, [⟨0x0200, 0x0200⟩], 0⟩ }) .mem (fun t =>
      t.txn.cursor == 1 && t.ifg == tx) := by decide

theorem test_B15_nack_service :
    nextHas (exec .engSvcNack (writing .hold nack 0)) (fun t =>
      t.ifg.toByte == 0x00 && t.statusByte == 0x19 && t.txn == .empty && t.ph == .idle) := by decide

theorem test_B17_nack_service_of_stage_w :
    nextHas (exec .engSvcNack (indexing .hold nack 1)) (fun t =>
      t.nackseen && t.txn == ⟨.readreg, .r, 0x29, .read, .reg, 0, 0x12, 1, 0⟩ && t.trace == [.s] &&
      t.statusByte == 0x12) := by decide

theorem test_B14_stop_service :
    nextHas (exec .engSvcStop (writing .hold stop 3)) (fun t =>
      t.ifg.toByte == 0x00 && t.statusByte == 0x05 && t.txn == .empty && t.ph == .idle) := by decide

theorem test_B16_stop_service_of_stage_w :
    nextHas (exec .engSvcStop (indexing .hold stop 1)) (fun t =>
      t.txn.stage == .r && t.txn.dir == .read && t.trace == [.s] && t.ph == .addr && t.statusByte == 0x02) := by decide

theorem test_B19_disabled_flag_gives_no_step :
    State.selectedFlag { writing .load tx 0 with cfg := .reset } = none := by decide

/-! ## Waits and harness statements -/

theorem test_H7_waitdone_holds :
    nextHas (exec .hostWaitdone (writing .addr .none 0)) (fun t => t.hpc == 0) := by decide

theorem test_H8_waitdone_proceeds :
    nextHas (exec .hostWaitdone { idle with done := true, cause := .stop }) (fun t =>
      t.hpc == 1 && t.done) := by decide

theorem test_H10_sleep_proceeds :
    nextHas (exec (.hostSleep false) { idle with evbits := 0b0100 }) (fun t =>
      t.hpc == 1 && t.evbits == 0b0100) := by decide

theorem test_H11_sleep_holds_or_wakes :
    nextHas (exec (.hostSleep false) idle) (fun t => t.hpc == 0) ∧
    nextHas (exec (.hostSleep true) idle) (fun t => t.hpc == 1) := by decide

theorem test_R203_li :
    nextHas (exec (.harnessLi 2 0xFF) idle) (fun t => t.h[2] == 0xFF && t.h[1] == 0x00 && t.hpc == 1) := by decide

theorem test_R204_wr :
    nextHas (exec (.harnessWr 0x2 0x40) { idle with saddr := 0 }) (fun t =>
      t.saddr == 0x40 && t.hpc == 1) := by decide

theorem test_P7_wr_fault :
    faultHas (exec (.harnessWr 0x0 0x02) { idle with len := 0, hpc := 3 }) .lenZero (fun t => t.hpc == 3) := by decide

theorem test_R205_wrr :
    nextHas (exec (.harnessWrr 0xC 1) { idle with h := idle.h.set 1 0x08 }) (fun t =>
      t.evbits == 0b1000 && t.hpc == 1) := by decide

theorem test_R206_rd_takes :
    nextHas (exec (.harnessRd 0 0xD) { idle with evbits := 0b0001 }) (fun t =>
      t.h[0] == 0x80 && t.evbits == 0 && t.hpc == 1) := by decide

theorem test_P7_rd_fault :
    faultHas (exec (.harnessRd 0 0xE) { idle with h := idle.h.set 0 0x77 }) .reservedOff (fun t =>
      t.h[0] == 0x77) := by decide

theorem test_H1_addi_wraps :
    nextHas (exec (.harnessAddi 2 1) { idle with h := idle.h.set 2 0xFF }) (fun t =>
      t.h[2] == 0x00 && t.hpc == 1) := by decide

theorem test_H3_andi :
    nextHas (exec (.harnessAndi 0 0x0C) { idle with h := idle.h.set 0 0x19 }) (fun t =>
      t.h[0] == 0x08 && t.hpc == 1) := by decide

theorem test_H6_beqz_falls_through :
    nextHas (exec (.harnessBeqz 0 9) { idle with h := idle.h.set 0 0x80 }) (fun t => t.hpc == 1) := by decide

theorem test_R210_bnez_branches :
    nextHas (exec (.harnessBnez 0 9) { idle with h := idle.h.set 0 0x83 }) (fun t => t.hpc == 9) := by decide

theorem test_H5_beqi_branches :
    nextHas (exec (.harnessBeqi 0 0x83 9) { idle with h := idle.h.set 0 0x83 }) (fun t => t.hpc == 9) := by decide

theorem test_R212_jmp : nextHas (exec (.harnessJmp 7) idle) (fun t => t.hpc == 7) := by decide

theorem test_R213_log :
    nextHas (exec (.harnessLog 0) { idle with h := idle.h.set 0 0x83, log := [0x01] }) (fun t =>
      t.log == [0x01, 0x83] && t.hpc == 1) := by decide

theorem test_R214_halt :
    nextHas (exec .harnessHalt { idle with hpc := 8 }) (fun t => t.halted && t.hpc == 8) := by decide

/-! ## The step -/

theorem test_A14_width_is_checked_first :
    faultHas (step { idle with agenda := [.access 16 0x0E00] }) .width (fun t => t.agenda == []) := by decide

/-- R68, at 0x4002 and at the first address past the block. -/
theorem test_mapped_access :
    nextHas (step { idle with agenda := [.mapped 0x4002 8 true 0x29] }) (fun t => t.saddr == 0x29) ∧
    nextHas (step { idle with agenda := [.mapped 0x4010 8 true 0x29] }) (fun t => t.saddr == 0x40) := by decide

theorem test_H12_hpc_past_the_end :
    faultHas (step { idle with prog := [.halt], hpc := 99, agenda := [.host false] }) .hpc (fun t => t.hpc == 99) := by decide

theorem test_B20_bus_has_no_step_in_idle :
    nextHas (step { idle with agenda := [.bus true 0x00] }) (fun t => t.trace == [] && t.ph == .idle) := by decide

theorem test_reset_clears_a_hung_transaction :
    nextHas (step { writing .addr .none 0 with agenda := [.powerOn] })
      (fun t => t.statusByte == 0x00 && t.ph == .idle && t.txn == .empty && t.cfg == .reset && t.mem == idle.mem) := by decide

theorem test_fetched_word_runs :
    nextHas (step (State.reset.withFetchWord 16 0x1C08)) (fun t => t.evbits == 0b1000) := by decide

/-! ## Program text -/

/-- P3 of 95_test_vectors.md. -/
theorem test_assemble_P3 :
    assemble ["loop: rd h0, EVTAKE", "beqz h0, idle", "log h0", "jmp loop", "idle: halt ; the end"] =
      some [.rd 0 0xD, .beqz 0 4, .log 0, .jmp 0, .halt] := by decide

/-- The expansions of R93. -/
theorem test_pseudo_instructions :
    assemble ["i2c.write 0x40, 0x0200, 3"] =
      some [.wr 0x2 0x40, .wr 0x3 3, .wr 0x4 0x00, .wr 0x5 0x02, .wr 0x0 0x02, .waitdone] ∧
    assemble ["ev.post 3"] = some [.wr 0xC 0x08] ∧ assemble ["ev.take h1"] = some [.rd 1 0xD] := by decide

/-! ## Witnesses: states and operands that meet the hypotheses of the obligations, at the ends of each range -/

/-- `idle` with one turn to take. -/
def due (t : Turn) : State := { idle with agenda := [t] }

/-- `writing`, with a turn to take. -/
def writingDue (ph : Phase) (f : Ifg) (c : Byte) (ts : List Turn) : State := { writing ph f c with agenda := ts }

/-- A final state. -/
def final : State := { idle with halted := true, done := true, cause := .stop }

/-- The invariant holds in an idle state, in each phase of a WRITE and of a READREG, and in a final state. -/
theorem witness_idle_inv : Inv idle := by constructor <;> decide
theorem witness_addr_inv : Inv (writing .addr .none 0) := by constructor <;> decide
theorem witness_load_inv : Inv (writing .load tx 2) := by constructor <;> decide
theorem witness_txbyte_inv : Inv (writing .txbyte .none 3) := by constructor <;> decide
theorem witness_hold_inv : Inv (indexing .hold nack 1) := by constructor <;> decide
theorem witness_rxbyte_inv : Inv (reading .rxbyte .none) := by constructor <;> decide
theorem witness_final_inv : Inv final := by constructor <;> decide

theorem witness_AccessTableDecodes :
    ((0x04 : Byte) ≤ 0x04 ∧ (0x07 : Byte) ≤ 0x07) ∧
    ((0x08 : Byte) ≤ 0x08 ∧ (0x0F : Byte) ≤ 0x0F) ∧
    ((0x10 : Byte) ≤ 0x10 ∧ (0x1F : Byte) ≤ 0x1F) ∧
    ((0x20 : Byte) ≤ 0x20 ∧ (0x3F : Byte) ≤ 0x3F) ∧
    ((0x40 : Byte) ≤ 0x40 ∧ (0x7F : Byte) ≤ 0x7F) ∧
    ((0x80 : Byte) ≤ 0x80 ∧ (0x80 : Byte) ≤ 0xFF) := by decide

theorem witness_EncodedBytesDecodeBack :
    encode (.wrSaddr 0x40) = some [0x40, 0x12] := by decide

theorem witness_StepRunsAccessWord :
    (due (.access 8 0x1240)).faults = [] ∧
    (due (.access 8 0x1240)).agenda = [.access 8 0x1240] := by decide

theorem witness_StepRunsMappedAccess :
    idle.faults = [] ∧
    (due (.mapped 0x4000 8 true 0)).agenda = [.mapped (idle.par.base + (0x0 : Offset).toNat) 8 true 0] ∧
    (due (.mapped 0x400F 8 true 0)).agenda = [.mapped (idle.par.base + (0xF : Offset).toNat) 8 true 0] ∧
    (0x3FFF + (8 + 7) / 8 ≤ idle.par.base ∧ 0x3FFF < idle.par.base) ∧
    idle.par.base + 16 ≤ 0x4010 ∧
    (0x3FFF < idle.par.base ∧ idle.par.base < 0x3FFF + (16 + 7) / 8) := by decide

theorem witness_WideAccessFaults :
    idle.faults = [] ∧
    (7 ≠ 8) ∧
    (9 ≠ 8) ∧
    (due (.access 16 0x0E00)).agenda = [.access 16 0x0E00] ∧
    (due (.mapped 0x400F 16 true 0)).agenda = [.mapped (idle.par.base + (0xF : Offset).toNat) 16 true 0] := by decide

theorem witness_StepRunsHarnessStatement :
    (due (.host false)).faults = [] ∧
    (due (.host false)).agenda = [.host false] ∧
    final.halted = true ∧
    idle.halted = false ∧
    ({ idle with prog := [.halt] } : State).prog[idle.hpc]? = some .halt ∧
    ({ idle with prog := [.halt], hpc := 1 } : State).prog.length ≤ 1 := by decide

theorem witness_AgentTurnsRunEnabledRow :
    (due (.bus true 0)).faults = [] ∧
    (due (.bus true 0)).agenda = [.bus true 0] ∧
    (writing .addr .none 0).ph = .addr ∧
    (writing .txbyte .none 1).ph = .txbyte ∧
    (reading .rxbyte .none).ph = .rxbyte ∧
    idle.ph = .idle ∧
    (writing .load tx 0).ph = .load ∧
    (writing .hold nack 0).ph = .hold ∧
    (0b0001#4 ≠ 0) ∧
    (due (.producer 0b0001)).agenda = [.producer 0b0001] ∧
    (due (.producer 0)).agenda = [.producer 0] := by decide

theorem witness_FaultEndsTheRun :
    faultHas (exec .i2cWrite State.reset) .notInit (fun _ => true) ∧
    faultHas (step (due (.access 8 0x1004))) .reservedCmd (fun _ => true) ∧
    ({ due .engine with faults := [.mem] } : State).faults ≠ [] ∧
    (nextTurn { due .engine with faults := [.mem] }).1 ≠ .powerOn := by decide

theorem witness_PowerOnResetsTheBlock :
    (writingDue .addr .none 0 [.powerOn]).agenda = [.powerOn] ∧
    (writing .addr .none 0) ≠ State.reset := ⟨rfl, fun h => absurd (congrArg State.ph h) (by decide)⟩

theorem witness_InitConfigures :
    idle.busy = false ∧
    (writing .addr .none 0).busy = true ∧
    nextHas (exec .i2cInit idle) (fun _ => true) := by decide

theorem witness_WriteCommandStartsTransaction :
    (writing .addr .none 0).busy = true ∧
    (State.reset.busy = false ∧ State.reset.cfg.mst = false) ∧
    (idle.busy = false ∧ idle.cfg.mst = true ∧ ({ idle with len := 0 } : State).len = 0 ∧ idle.len ≠ 0) ∧
    0x10000 < ((0xFF#8 ++ 0x02#8).toNat + (0xFF#8).toNat) ∧
    ((0xFF#8 ++ 0x01#8).toNat + (0xFF#8).toNat) ≤ 0x10000 := by decide

theorem witness_ReadregCommandStartsStageW :
    (reading .addr .none).busy = true ∧
    (State.reset.busy = false ∧ State.reset.cfg.mst = false) ∧
    (idle.busy = false ∧ idle.cfg.mst = true) := by decide

theorem witness_ReservedCommandsFault :
    (0x04 : Byte) ≤ 0x04 ∧
    (0x04 : Byte) ≤ 0xFF := by decide

theorem witness_ReservedOffsetsFault :
    (0xE : Offset) ≤ 0xE ∧
    (0xE : Offset) ≤ 0xF := by decide

theorem witness_ReadsHaveNoSideEffect :
    (0x0 : Offset) ≤ 0xC ∧
    (0xC : Offset) ≤ 0xC := by decide

theorem witness_PostsOrIntoEventBits :
    (0b0001#4 ≠ 0) ∧
    nextHas (exec (.prodEvIn 0b0001) idle) (fun _ => true) := by decide

theorem witness_TakeReturnsTheHighestEvent :
    idle.evbits = 0 ∧
    ((0b0001#4).getLsbD 0 = true ∧ ∀ j : Fin 4, 0 < j → (0b0001#4).getLsbD j.val = false) ∧
    ((0b1011#4).getLsbD 3 = true ∧ ∀ j : Fin 4, 3 < j → (0b1011#4).getLsbD j.val = false) := by decide

theorem witness_PostsOfOneKindCoalesce :
    nextHas (exec (.evPost 0x08) idle) (fun t =>
      nextHas (exec (.evTake 0) t) (fun u => u.rdata == 0x80 ||| BitVec.ofNat 8 3)) ∧
    nextHas (exec (.prodEvIn 0b0001) idle) (fun _ => true) := by decide

theorem witness_TakeThenPostKeepsThePost :
    ({ idle with agenda := [.access 8 0x0D00, .producer 0b1000] } : State).faults = [] ∧
    (0b1000#4 ≠ 0) ∧
    ({ idle with agenda := [.access 8 0x0D00, .producer 0b1000] } : State).agenda = takeThenPost 0b1000 ++ [] ∧
    ({ idle with agenda := [.producer 0b1000, .access 8 0x0D00] } : State).agenda =
      [.producer 0b1000, .access 8 0x0D00] := by decide

theorem witness_DrainFallsInPriority :
    nextHas (exec (.evTake 0) { idle with evbits := 0b1111 }) (fun t => nextHas (exec (.evTake 0) t) (fun u =>
      nextHas (exec (.evTake 0) u) (fun v => nextHas (exec (.evTake 0) v) (fun _ => true)))) := by decide

theorem witness_UnitsShareNoState :
    Instr.isBusEngine .engSvcTx = true ∧
    nextHas (exec .engSvcTx (writing .load tx 0)) (fun _ => true) := by decide

theorem witness_AddressAnswerMovesThePhase :
    ((writing .addr .none 0).ph = .addr ∧ (writing .addr .none 0).txn.dir = .write) ∧
    ((reading .addr .none).ph = .addr ∧ (reading .addr .none).txn.dir = .read) := by decide

theorem witness_DataAnswerMovesThePhase :
    (writing .txbyte .none 2).ph = .txbyte ∧
    (writing .txbyte .none 2).txn.cursor < (writing .txbyte .none 2).txn.len ∧
    (writing .txbyte .none 3).txn.len ≤ (writing .txbyte .none 3).txn.cursor := by decide

theorem witness_ReceivedByteRaisesBothFlags :
    (reading .rxbyte .none).ph = .rxbyte := by decide

theorem witness_EngineServicesFlagsInOrder :
    (due .engine).faults = [] ∧
    (due .engine).agenda = [.engine] ∧
    (due .engine).selectedFlag = none ∧
    (reading .hold rxStop).selectedFlag = some .rx ∧
    (writing .load tx 0).selectedFlag = some .tx ∧
    (writing .hold nack 0).selectedFlag = some .nack ∧
    (writing .hold stop 3).selectedFlag = some .stop := by decide

theorem witness_ReceiveServiceFillsRxdata :
    (reading .hold rxStop).selectedFlag = some .rx := by decide

theorem witness_TransmitServiceLoadsTheByte :
    ((writing .load tx 2).selectedFlag = some .tx ∧ (writing .load tx 2).txn.src = .mem) ∧
    (writing .load tx 2).par.inWindow (0x0200 + (2#8).setWidth 16) = true ∧
    (writing .load tx 3).par.inWindow (0x0200 + (3#8).setWidth 16) = false ∧
    ((indexing .load tx 0).selectedFlag = some .tx ∧ (indexing .load tx 0).txn.src = .reg) := by decide

theorem witness_NackServiceCompletes :
    ((indexing .hold nack 1).selectedFlag = some .nack ∧ (indexing .hold nack 1).txn.cmd = .readreg ∧
      (indexing .hold nack 1).txn.stage = .w) ∧
    ((writing .hold nack 0).selectedFlag = some .nack ∧ (writing .hold nack 0).txn.cmd ≠ .readreg) ∧
    ((reading .hold nack).selectedFlag = some .nack ∧ (reading .hold nack).txn.stage = .r) := by decide

theorem witness_StopServiceCompletes :
    ((indexing .hold stop 1).selectedFlag = some .stop ∧ (indexing .hold stop 1).txn.cmd = .readreg ∧
      (indexing .hold stop 1).txn.stage = .w) ∧
    ((writing .hold stop 3).selectedFlag = some .stop ∧ (writing .hold stop 3).txn.cmd ≠ .readreg) ∧
    ((reading .hold stop).selectedFlag = some .stop ∧ (reading .hold stop).txn.stage = .r) := by decide

theorem witness_WaitdoneWaitsOnTheLevel :
    final.done = true ∧
    idle.done = false := by decide

theorem witness_SleepWaitsOnEvents :
    ({ idle with evbits := 0b0001 } : State).evbits ≠ 0 ∧
    idle.evbits = 0 := by decide

theorem witness_WriteStatementsMakeTheAccess :
    nextHas (exec (decodeWord (accessWord (1#1 ++ 0x0#4) 0x02)) idle) (fun _ => true) ∧
    faultHas (exec (decodeWord (accessWord (1#1 ++ 0xF#4) 0x02)) idle) .reservedOff (fun _ => true) ∧
    ((1 : Offset) ≤ 1 ∧ (1 : Offset) ≤ 0xD) ∧
    ((1 : Offset) ≤ 0xD ∧ (0xD : Offset) ≤ 0xD) := by decide

theorem witness_ReadStatementMakesTheAccess :
    nextHas (exec (decodeWord (accessWord (0#1 ++ 0xD#4) 0x00)) idle) (fun _ => true) ∧
    faultHas (exec (decodeWord (accessWord (0#1 ++ 0xE#4) 0x00)) idle) .reservedOff (fun _ => true) ∧
    ((0 : Offset) ≤ 0xD ∧ (0xD : Offset) ≤ 0xD) := by decide

theorem witness_HostMemoryIsNeverWritten :
    nextHas (exec .engSvcTx (writing .load tx 0)) (fun _ => true) := by decide

theorem witness_OnlyReceiveServiceWritesRxdata :
    nextHas (exec (.busRxByte 0x5A) (reading .rxbyte .none)) (fun _ => true) ∧
    Instr.busRxByte 0x5A ≠ .engSvcRx := by decide

theorem witness_OnlyInitWritesConfiguration :
    nextHas (exec .i2cInit { State.reset with par := ⟨0, [], 0x10⟩ }) (fun _ => true) ∧
    nextHas (exec .engSvcTx (writing .load tx 0)) (fun _ => true) := by decide

theorem witness_TraceOnlyGrows :
    nextHas (exec .i2cWrite idle) (fun _ => true) ∧
    Instr.agent .i2cWrite = .host := by decide

theorem witness_HostNeverDisturbsATransaction :
    (writing .addr .none 0).busy = true ∧
    (nextHas (exec (.wrSaddr 0x41) (writing .addr .none 0)) (fun _ => true) ∧ Instr.agent (.wrSaddr 0x41) = .host) ∧
    (nextHas (exec (.prodEvIn 0b0001) (writing .addr .none 0)) (fun _ => true) ∧
      Instr.agent (.prodEvIn 0b0001) = .producers) := by decide

theorem witness_LateStoreIsSent :
    Inv (writingDue .load tx 2 [.store 0x0202 0xAB, .engine]) ∧
    (writingDue .load tx 2 [.store 0x0202 0xAB, .engine]).ph = .load ∧
    (writing .load tx 2).txn.cmd = .write ∧ (writing .load tx 2).par.inWindow (writing .load tx 2).txn.byteAddr = true ∧
    (writingDue .load tx 2 [.store 0x0202 0xAB, .engine]).agenda =
      [.store (writing .load tx 2).txn.byteAddr 0xAB, .engine] :=
  ⟨by constructor <;> decide, by decide, by decide, by decide, by decide⟩

theorem witness_StepKeepsTheInvariant :
    Inv (writingDue .load tx 2 [.engine]) ∧
    nextHas (step (writingDue .load tx 2 [.engine])) (fun t => t.txn.cursor == 3 && t.ph == .txbyte) :=
  ⟨by constructor <;> decide, by decide⟩

theorem witness_AckedWriteSendsTheBuffer :
    Inv { idle with agenda := .access 8 0x1002 :: (writeTurns 3 ++ []) } ∧ idle.busy = false ∧ idle.cfg = .afterInit ∧
    idle.len ≠ 0 ∧ (idle.bufh ++ idle.bufl).toNat + idle.len.toNat ≤ 0x10000 ∧
    windowHolds idle (idle.bufh ++ idle.bufl) idle.len.toNat = true ∧ idle.len.toNat = 3 :=
  ⟨by constructor <;> decide, by decide, by decide, by decide, by decide, by decide, by decide⟩

theorem witness_NackedWriteStopsThere :
    Inv { idle with agenda := .access 8 0x1002 :: .bus false 0x00 :: .engine :: [] } ∧ idle.busy = false ∧
    idle.cfg = .afterInit ∧ idle.len ≠ 0 ∧ (idle.bufh ++ idle.bufl).toNat + idle.len.toNat ≤ 0x10000 ∧
    Inv { idle with agenda := .access 8 0x1002 :: (writeNackTurns 2 ++ []) } ∧ 0 < idle.len.toNat ∧ 2 < idle.len.toNat ∧
    windowHolds idle (idle.bufh ++ idle.bufl) (0 + 1) = true ∧ windowHolds idle (idle.bufh ++ idle.bufl) (2 + 1) = true :=
  ⟨by constructor <;> decide, by decide, by decide, by decide, by decide, by constructor <;> decide, by decide, by decide,
    by decide, by decide⟩

theorem witness_ReadregReturnsTheByte :
    Inv { idle with agenda := .access 8 0x1003 :: (IndexWrite.acked.turns ++ readTurns 0x5A ++ []) } ∧
    Inv { idle with agenda := .access 8 0x1003 :: (IndexWrite.indexNacked.turns ++ readNackTurns ++ []) } ∧
    idle.busy = false ∧ idle.cfg = .afterInit :=
  ⟨by constructor <;> decide, by constructor <;> decide, by decide, by decide⟩

theorem witness_HungBusNeverCompletes :
    Inv (writingDue .addr .none 0 [.host false, .engine]) ∧ Phase.waitsForBus .addr = true ∧
    (writingDue .addr .none 0 [.host false, .engine]).agenda = [.host false, .engine] ++ [] ∧
    (∀ x ∈ [Turn.host false, .engine], x.canUnhang = false) ∧
    nextHas (Host.Core.run Sys2Proof.core 2 { writingDue .addr .none 0 [.host false, .engine] with prog := [.waitdone] })
      (fun t => t.busy) :=
  ⟨by constructor <;> decide, by decide, by decide, by decide, by decide⟩

theorem witness_FinalStatesStay :
    Inv { final with agenda := [.engine] } ∧ final.isFinal = true ∧
    ({ final with agenda := [.engine] } : State).agenda = Turn.engine :: [] :=
  ⟨by constructor <;> decide, by decide, by decide⟩

/-- A program of two pseudo-instructions, with the turns that run the first. -/
def pseudoRun : State :=
  { idle with prog := [Pseudo.nop, .i2cWrite 0x40 0x0200 3].flatMap Pseudo.expand, agenda := [.host false] }

theorem witness_PseudoProgramsAreNeverBusyFaults :
    Inv pseudoRun ∧ pseudoRun.busy = false ∧ pseudoRun.hpc = 0 ∧
    pseudoRun.prog = [Pseudo.nop, .i2cWrite 0x40 0x0200 3].flatMap Pseudo.expand ∧
    (∀ x ∈ [Turn.host false], x.isProgramRun = true) ∧ 1 ≤ [Turn.host false].length ∧
    nextHas (Host.Core.run Sys2Proof.core 1 pseudoRun) (fun t => t.hpc == 1) ∧
    pseudoRun.prog[pseudoRun.hpc]? = some (.wr 0x0 0x00) ∧ Stmt.writesCtrl (.wr 0x0 0x00) = true :=
  ⟨by constructor <;> decide, by decide, by decide, by decide, by decide, by decide, by decide, by decide, by decide⟩

/-- BUSY, with the program at the `waitdone` after its command. -/
def waitingRun : State := { writing .addr .none 0 with prog := [.wr 0x0 0x02, .waitdone], hpc := 1, agenda := [.host false] }

theorem witness_StepKeepsTheProgramInvariant :
    ProgramInv pseudoRun ∧ (nextTurn pseudoRun).1.isProgramRun = true ∧
    nextHas (step pseudoRun) (fun t => t.hpc == 1) ∧
    pseudoRun.prog[pseudoRun.hpc]? = some (.wr 0x0 0x00) ∧ Stmt.writesCtrl (.wr 0x0 0x00) = true ∧
    ProgramInv waitingRun ∧ waitingRun.busy = true ∧ (nextTurn waitingRun).1.isProgramRun = true ∧
    nextHas (step waitingRun) (fun t => t.hpc == 1 && t.busy) :=
  ⟨⟨by constructor <;> decide, by decide, by decide⟩, by decide, by decide, by decide, by decide,
    ⟨by constructor <;> decide, by decide, by decide⟩, by decide, by decide, by decide⟩

end Sys2Proof.Tests
end

section
/-! The scope rules (00_scope.md): what a fault does to the state and to the run (R8), and the two waits of the host
(R9, R201, R202). -/

namespace Sys2Proof.Machine

/-! ## What a result can be -/

/-- The result of an instruction executed in `s`: a next state, or a fault raised in `s` itself (R8), never a
refusal. -/
def AnswersOrRaises (s : State) (r : Result) : Prop := (∃ t, r = .next t) ∨ ∃ c, r = raise c s

theorem answersOrRaises_next (s t : State) : AnswersOrRaises s (.next t) := .inl ⟨t, rfl⟩

theorem answersOrRaises_raise (s : State) (c : FaultCode) : AnswersOrRaises s (raise c s) := .inr ⟨c, rfl⟩

theorem answersOrRaises_ite {s : State} {r r' : Result} (p : Prop) [Decidable p] (h : AnswersOrRaises s r)
    (h' : AnswersOrRaises s r') : AnswersOrRaises s (if p then r else r') := by
  split
  · exact h
  · exact h'

/-- If such a result is a fault, the state at it is `s` with one code recorded (R8). -/
theorem AnswersOrRaises.fault {s : State} {r : Result} {f : Fault} (h : AnswersOrRaises s r) (e : r = .fault f) :
    ∃ c, f = .raised c (s.recordFault c) := by
  subst e
  obtain ⟨t, e⟩ | ⟨c, e⟩ := h
  · cases e
  · exact ⟨c, (raise_eq_fault c s f).1 e.symm⟩

theorem performAccess_answersOrRaises {i : Instr} (s : State) (h : i.isAccess = true) :
    AnswersOrRaises s (performAccess i s) := by
  obtain h | ⟨t, h, -⟩ := performAccess_outcome s h
  · exact .inr h
  · exact .inl ⟨t, h⟩

/-- A statement that makes an access has the access's fault (R204). -/
theorem afterAccess_answersOrRaises {s : State} {r : Result} (f : State → State) (h : AnswersOrRaises s r) :
    AnswersOrRaises s (afterAccess r f) := by
  obtain ⟨t, rfl⟩ | ⟨c, rfl⟩ := h
  · exact answersOrRaises_next s (f t)
  · exact answersOrRaises_raise s c

theorem hostWrite_answersOrRaises (off : Offset) (v : Byte) (s : State) : AnswersOrRaises s (hostWrite off v s) :=
  performAccess_answersOrRaises s (decodeWord_isAccess _)

theorem hostRead_answersOrRaises (off : Offset) (s : State) : AnswersOrRaises s (hostRead off s) :=
  performAccess_answersOrRaises s (decodeWord_isAccess _)

theorem execBusAddrAck_answersOrRaises (k : Bool) (s : State) : AnswersOrRaises s (execBusAddrAck k s) := by
  unfold execBusAddrAck
  refine answersOrRaises_ite _ (answersOrRaises_ite _ ?_ (answersOrRaises_next ..)) (answersOrRaises_next ..)
  cases s.txn.dir <;> exact answersOrRaises_next ..

/-- The load of a byte outside MEMWIN is the engine's one fault (R127). -/
theorem execEngSvcTx_answersOrRaises (s : State) : AnswersOrRaises s (execEngSvcTx s) := by
  refine answersOrRaises_ite _ ?_ (answersOrRaises_next ..)
  cases s.nextTxByte
  · exact answersOrRaises_raise ..
  · exact answersOrRaises_next ..

/-- An access can fault, so can a statement that makes one, and the engine's load; every other instruction answers a
state. -/
theorem exec_answersOrRaises (i : Instr) (s : State) : AnswersOrRaises s (exec i s) := by
  cases hi : i.isAccess
  case true => exact performAccess_eq_exec s hi ▸ performAccess_answersOrRaises s hi
  case false =>
    cases i
    case harnessWr off v => exact afterAccess_answersOrRaises _ (hostWrite_answersOrRaises off v s)
    case harnessWrr off n => exact afterAccess_answersOrRaises _ (hostWrite_answersOrRaises off (s.readH n) s)
    case harnessRd n off => exact afterAccess_answersOrRaises _ (hostRead_answersOrRaises off s)
    case engSvcTx => exact execEngSvcTx_answersOrRaises s
    case busAddrAck k => exact execBusAddrAck_answersOrRaises k s
    case busDataAck k =>
      exact answersOrRaises_ite _
        (answersOrRaises_ite _
          (answersOrRaises_ite _ (answersOrRaises_next ..) (answersOrRaises_next ..)) (answersOrRaises_next ..))
        (answersOrRaises_next ..)
    case busRxByte | engSvcRx | engSvcNack | engSvcStop | hostWaitdone | hostSleep =>
      exact answersOrRaises_ite _ (answersOrRaises_next ..) (answersOrRaises_next ..)
    case prodEvIn | harnessLi | harnessAddi | harnessAndi | harnessBeqz | harnessBnez | harnessBeqi | harnessJmp |
        harnessLog | harnessHalt => exact answersOrRaises_next ..
    all_goals cases hi

/-! ## The state at a fault -/

theorem mem_faults_recordFault {s : State} {c d : FaultCode} :
    d ∈ (s.recordFault c).faults ↔ d = c ∨ d ∈ s.faults := mem_insertFault

theorem recordFault_faults_ne_nil (s : State) (c : FaultCode) : (s.recordFault c).faults ≠ [] :=
  List.ne_nil_of_mem (mem_faults_recordFault.2 (.inl rfl))

/-- A final state has no fault recorded (R216). -/
theorem isFinal_of_faults_ne_nil {s : State} (h : s.faults ≠ []) : s.isFinal = false := by
  simp [State.isFinal, h]

theorem recordFault_isFinal (s : State) (c : FaultCode) : (s.recordFault c).isFinal = false :=
  isFinal_of_faults_ne_nil (recordFault_faults_ne_nil s c)

/-! ## The turn and the step -/

/-- How a turn is used up: the head of the schedule, or one free turn more once the schedule is empty. -/
theorem nextTurn_snd (s : State) : (nextTurn s).2 =
    { s with agenda := s.agenda.tail, turns := if s.agenda = [] then s.turns + 1 else s.turns } := by
  cases h : s.agenda with
  | nil => simp [nextTurn_nil h, h]
  | cons t ts => simp [nextTurn_cons h]

@[simp] theorem nextTurn_faults (s : State) : (nextTurn s).2.faults = s.faults := by rw [nextTurn_snd]

/-- After a fault a turn comes to nothing, power-on reset excepted (R8, R260). -/
theorem turnAction_of_fault {t : Turn} {s : State} (h : s.faults ≠ []) (ht : t ≠ .powerOn) :
    turnAction t s = .stopped := by
  unfold turnAction
  rw [if_neg h]
  cases t
  case powerOn => exact absurd rfl ht
  all_goals rfl

theorem step_stopped {s : State} (ha : turnAction (nextTurn s).1 (nextTurn s).2 = .stopped) :
    step s = .refused .afterFault := by simp [step, ha]

/-- A step that faults has used its turn up and recorded the code (R8). -/
theorem step_fault {s : State} {f : Fault} (h : step s = .fault f) :
    ∃ c, f = .raised c ((nextTurn s).2.recordFault c) := by
  cases ha : turnAction (nextTurn s).1 (nextTurn s).2 with
  | run i => exact (exec_answersOrRaises i (nextTurn s).2).fault (step_run rfl ha ▸ h)
  | settle v => rw [step_settle rfl ha] at h; cases h
  | raise c => exact ⟨c, (raise_eq_fault ..).1 (step_raise rfl ha ▸ h)⟩
  | stopped => rw [step_stopped ha] at h; cases h

/-- Settles O11: every result is a next state or a fault raised in the state the instruction ran in, and a recorded
fault stops every turn but power-on reset. -/
theorem faultEndsTheRun : Obligations.FaultEndsTheRun := by
  refine ⟨fun i s f h => ?_, fun s f h => ?_, nextTurn_snd, fun s hf ht => ?_⟩
  · obtain ⟨c, rfl⟩ := (exec_answersOrRaises i s).fault h
    exact ⟨c, s.recordFault c, rfl, rfl, fun _ => mem_faults_recordFault, recordFault_isFinal s c⟩
  · obtain ⟨c, rfl⟩ := step_fault h
    refine ⟨c, (nextTurn s).2.recordFault c, rfl, rfl, fun d => ?_, recordFault_isFinal _ c⟩
    rw [mem_faults_recordFault, nextTurn_faults]
  · exact step_stopped (turnAction_of_fault (by rwa [nextTurn_faults]) ht)

/-! ## The host's waits -/

/-- SLEEP's level is up exactly while an event is pending (R27, R46). -/
theorem wakeEv_eq_true {s : State} : s.wakeEv = true ↔ s.evbits ≠ 0 := by
  simp [State.wakeEv, State.evpend]

/-- A wait that is lifted advances `hpc`; one that holds leaves the state (R9). -/
theorem hostWaitdone_eq (s : State) : exec .hostWaitdone s = .next (if s.done = true then s.advance else s) :=
  (apply_ite ..).symm

theorem hostSleep_eq (spurious : Bool) (s : State) :
    exec (.hostSleep spurious) s = .next (if s.evbits ≠ 0 ∨ spurious = true then s.advance else s) := by
  rw [apply_ite Host.Outcome.next]
  simp only [exec, execHostSleep, Bool.or_eq_true, wakeEv_eq_true]

/-- Settles O40: the two values of DONE in WAITDONE's equation. -/
theorem waitdoneWaitsOnTheLevel : Obligations.WaitdoneWaitsOnTheLevel := by
  refine fun s => ⟨fun h => ?_, fun h => ?_⟩
  · rw [hostWaitdone_eq, if_pos h]; rfl
  · rw [hostWaitdone_eq, if_neg (by simp [h])]

/-- Settles O41: the cases of EVBITS and of the draw in SLEEP's equation. -/
theorem sleepWaitsOnEvents : Obligations.SleepWaitsOnEvents := by
  refine fun s spurious => ⟨fun h => ?_, fun _ => ?_, fun h => ?_⟩
  · rw [hostSleep_eq, if_pos (.inl h)]; rfl
  · rw [hostSleep_eq, if_pos (.inr rfl)]; rfl
  · rw [hostSleep_eq, if_neg (by simp [h])]

end Sys2Proof.Machine
end

section
/-! The state after power-on reset, as a reader of the block and of the harness sees it (R49, R200). -/

namespace Sys2Proof.Machine

/-! ## The bytes and registers read at reset -/

/-- With DONE, BUSY, CAUSE and NACKSEEN clear and no event pending, STATUS reads 0x00 (R49). -/
@[simp] theorem State.statusByte_reset : State.reset.statusByte = 0x00 := by decide

@[simp] theorem Cfg.toByte_reset : Cfg.reset.toByte = 0x00 := by decide

@[simp] theorem Ifg.toByte_none : Ifg.none.toByte = 0x00 := by decide

/-- The harness registers at the start of a program (R200). -/
@[simp] theorem State.readH_reset (n : HReg) : State.reset.readH n = 0x00 := by
  fin_cases n <;> rfl

/-- Settles O14: STATUS, CFG, IFG and the harness registers by what they read at reset; every other piece of the
state is a field of the reset state. -/
theorem resetStateHasTheSpecsValues : Obligations.ResetStateHasTheSpecsValues :=
  ⟨State.statusByte_reset, rfl, rfl, rfl, rfl, rfl, rfl, rfl, Cfg.toByte_reset, Ifg.toByte_none, rfl, rfl, rfl, rfl,
    rfl, rfl, rfl, rfl, rfl, rfl, State.readH_reset⟩

end Sys2Proof.Machine
end

section
/-! The host's accesses to the block (20_memory.md): the width of an access (R63) and its host address (R68). -/

namespace Sys2Proof.Machine

/-! ## A turn that raises a fault -/

/-- The first fault is the only code in FAULT (R8). -/
theorem State.recordFault_of_noFault {s : State} (h : s.faults = []) (c : FaultCode) :
    s.recordFault c = { s with faults := [c] } := by
  rw [State.recordFault, h, insertFault]

/-- A step with no fault recorded and a turn that raises. -/
theorem step_agent_raise {s : State} {t : Turn} {ts : List Turn} {c : FaultCode} (hf : s.faults = [])
    (h : s.agenda = t :: ts) (ha : agentAction t { s with agenda := ts } = .raise c) :
    step s = .fault (.raised c { s with agenda := ts, faults := [c] }) := by
  rw [step_raise (nextTurn_cons h) ((turnAction_of_noFault (s := { s with agenda := ts }) hf).trans ha), raise,
    State.recordFault_of_noFault (s := { s with agenda := ts }) hf]

/-! ## The action of an access -/

theorem accessAction_of_ne_eight {width : Nat} (h : width ≠ 8) (w : AccessWord) :
    accessAction width w = .raise .width := if_neg h

/-- At the host address of an offset, the access is the access at that offset (R68). -/
theorem mappedAction_base_add (s : State) (off : Offset) (width : Nat) (write : Bool) (data : Byte) :
    mappedAction (s.par.base + off.toNat) width write data s =
      accessAction width (accessWord (BitVec.ofBool write ++ off) data) := by
  rw [mappedAction, offsetOf_add]

/-- Settles O8: by access word or at a host address, the action is `accessAction`, which raises F_WIDTH for every width
but 8. -/
theorem wideAccessFaults : Obligations.WideAccessFaults := by
  intro s width ts hf hw
  refine ⟨fun w h => ?_, fun off write data h => ?_⟩
  · exact step_agent_raise hf h (accessAction_of_ne_eight hw w)
  · exact step_agent_raise hf h
      ((mappedAction_base_add { s with agenda := ts } off width write data).trans (accessAction_of_ne_eight hw _))

end Sys2Proof.Machine
end

section
/-! Every step keeps the machine invariant (10_state.md R50): one lemma for each agent, then the instruction, the turn
and the step. -/

namespace Sys2Proof.Machine

variable {s t : State}

/-! ## What the invariant says of the phase, the flags and the configuration -/

theorem Inv.busy_of_ph (h : Inv s) (hp : s.ph ≠ .idle) : s.busy = true :=
  Bool.of_not_eq_false (mt h.idle_iff.2 hp)

/-- A flag is pending in LOAD and in HOLD only (R50 d, e). -/
theorem Inv.ifg_eq_none (h : Inv s) (hl : s.ph ≠ .load) (hh : s.ph ≠ .hold) : s.ifg = .none := by
  have hf := h.flags
  cases hp : s.ph <;> simp_all [Ifg.fits]

theorem Inv.cfg_of_mst (h : Inv s) (hm : s.cfg.mst = true) : s.cfg = .afterInit := by
  obtain hc | hc := h.cfg_legal
  · rw [hc] at hm; cases hm
  · exact hc

/-- The four services: which flags are pending when a flag is selected, and in which phase (R50 d, e, R125). -/
inductive Service (s : State) : Flag → Prop where
  | rx (hp : s.ph = .hold) (hi : s.ifg = ⟨true, false, true, false⟩) : Service s .rx
  | tx (hp : s.ph = .load) (hi : s.ifg = ⟨false, true, false, false⟩) : Service s .tx
  | stop (hp : s.ph = .hold) (hi : s.ifg = ⟨false, false, true, false⟩) : Service s .stop
  | nack (hp : s.ph = .hold) (hi : s.ifg = ⟨false, false, false, true⟩) : Service s .nack

theorem Inv.service (h : Inv s) {f : Flag} (hf : s.selectedFlag = some f) : Service s f := by
  have hc : s.cfg = .afterInit := h.cfg_legal.resolve_left fun hc => by simp [State.selectedFlag_reset hc] at hf
  rw [State.selectedFlag_afterInit hc] at hf
  have hfit := h.flags
  by_cases hl : s.ph = .load
  · have hi : s.ifg = ⟨false, true, false, false⟩ := by simpa [hl, Ifg.fits] using hfit
    obtain rfl : Flag.tx = f := by simpa [hi] using hf
    exact .tx hl hi
  by_cases hh : s.ph = .hold
  · simp only [hh, Ifg.fits, Bool.or_eq_true, beq_iff_eq] at hfit
    obtain (hi | hi) | hi := hfit
    · obtain rfl : Flag.nack = f := by simpa [hi] using hf
      exact .nack hh hi
    · obtain rfl : Flag.rx = f := by simpa [hi] using hf
      exact .rx hh hi
    · obtain rfl : Flag.stop = f := by simpa [hi] using hf
      exact .stop hh hi
  · simp [h.ifg_eq_none hl hh, Ifg.none] at hf

/-! ## The invariant after a change of part of the state -/

/-- The harness's own state and the schedule are not the machine invariant's (R200). -/
theorem Inv.withHarness (h : Inv s) (hs : Vector Byte 8) (pc : Nat) (lg : List Byte) (hlt : Bool) :
    Inv { s with h := hs, hpc := pc, log := lg, halted := hlt } := { h with }

theorem Inv.withSchedule (h : Inv s) (ts : List Turn) (n : Nat) : Inv { s with agenda := ts, turns := n } := { h with }

theorem Inv.storeByte (h : Inv s) (a : HostAddr) (b : Byte) : Inv (s.storeByte a b) :=
  { h with mem_wf := s.wf_storeByte a b h.mem_wf }

/-- A command issued with BUSY = 0, for a transaction that is well formed at its START (R102, R103). -/
theorem Inv.issue (h : Inv s) (hb : s.busy = false) (hm : s.cfg.mst = true) (x : Transaction) (hcmd : x.cmd ≠ .none)
    (hstage : x.stage = .w) (hdir : x.dir = .write) (hcur : x.cursor = 0) (hlen : x.len ≠ 0)
    (hsrc : x.src = .reg ↔ x.cmd = .readreg) (hbuf : x.cmd = .write → x.buf.toNat + x.len.toNat ≤ 0x10000) :
    Inv (s.issue x) :=
  have hi : s.ifg = .none := by
    apply h.ifg_eq_none <;> simp [h.idle_iff.2 hb]
  { h with
    busy_iff := by simp [hcmd]
    idle_iff := by simp
    emptyWhenIdle := by simp
    cursor_le := by simp [hcur]
    flags := by simp [hi, Ifg.fits]
    cursor := by simpa [Transaction.fits, hcur] using hlen
    cfg_busy := fun _ => h.cfg_of_mst hm
    stage_cmd := by simp [hstage]
    dir_stage := by simp [hstage, hdir]
    src_cmd := hsrc
    buf_fits := hbuf
    done_busy := by simp
    done_cause := by simp }

/-- Within a transaction the phase and the flags move together; the trace and the data registers are free. -/
theorem Inv.movePhase (h : Inv s) (hb : s.busy = true) (p : Phase) (f : Ifg) (hp : p ≠ .idle) (hf : f.fits p = true)
    (hc : s.txn.fits p = true) (tr : List Sym) (tx rx rd : Byte) :
    Inv { s with ph := p, ifg := f, trace := tr, txshift := tx, rxshift := rx, rxdata := rd } :=
  { h with
    idle_iff := by simp [hb, hp]
    flags := hf
    cursor := hc }

/-- The load of a byte counts it (R127). -/
theorem Inv.countByte (h : Inv s) (hp : s.ph = .load) :
    Inv { s with txn := { s.txn with cursor := s.txn.cursor + 1 }, ph := .txbyte, ifg := .none } :=
  have hb : s.busy = true := h.busy_of_ph (by simp [hp])
  have hlt : s.txn.cursor.toNat < s.txn.len.toNat := by simpa [hp, Transaction.fits] using h.cursor
  { h with
    idle_iff := by simp [hb]
    emptyWhenIdle := by simp [hb]
    cursor_le := by
      have hinc : (s.txn.cursor + 1).toNat = s.txn.cursor.toNat + 1 :=
        BitVec.toNat_add_of_lt (by have := s.txn.len.isLt; simp; omega)
      rw [hinc]
      exact hlt
    flags := rfl
    cursor := rfl }

/-- A completion in HOLD, the flag cleared: the second START of a READREG, or the end of the transaction (R130). -/
theorem Inv.complete (h : Inv s) (hp : s.ph = .hold) (n : Bool) {c : Cause} (hc : c ≠ .none) :
    Inv (State.complete { s with ifg := .none, nackseen := n } c) := by
  have hb : s.busy = true := h.busy_of_ph (by simp [hp])
  obtain ⟨hcmd, -, e⟩ | e := State.complete_cases { s with ifg := .none, nackseen := n } c <;> rw [e]
  · replace hcmd : s.txn.cmd = .readreg := hcmd
    exact { h with
      idle_iff := by simp [hb]
      emptyWhenIdle := by simp [hb]
      cursor_le := by simp [Transaction.readStage]
      flags := rfl
      cursor := rfl
      stage_cmd := fun _ => hcmd
      dir_stage := by simp [Transaction.readStage]
      buf_fits := by simp [Transaction.readStage, hcmd] }
  · exact { h with
      busy_iff := by simp [Transaction.empty]
      idle_iff := by simp
      emptyWhenIdle := fun _ => rfl
      cursor_le := by simp [Transaction.empty]
      flags := rfl
      cursor := rfl
      cfg_busy := by simp
      stage_cmd := by simp [Transaction.empty]
      dir_stage := by simp [Transaction.empty]
      src_cmd := by simp [Transaction.empty]
      buf_fits := by simp [Transaction.empty]
      done_busy := by simp
      done_cause := by simp [hc] }

/-! ## Reset -/

theorem inv_reset : Inv State.reset where
  noFault := rfl
  busy_iff := by decide
  idle_iff := by decide
  emptyWhenIdle := fun _ => rfl
  cursor_le := by decide
  flags := rfl
  cursor := rfl
  cfg_legal := .inl rfl
  cfg_busy := by decide
  stage_cmd := by decide
  dir_stage := by decide
  src_cmd := by decide
  buf_fits := by decide
  done_busy := by decide
  done_cause := by decide
  mem_wf := State.reset_mem_wf

/-- Power-on reset puts the block where `State.reset` has it and leaves host memory (R260). -/
theorem Inv.powerOn (h : Inv s) : Inv s.powerOn := { inv_reset with mem_wf := h.mem_wf }

/-! ## The agents -/

theorem AccessNext.keeps_inv (h : Inv s) (ha : AccessNext s t) : Inv t := by
  cases ha with
  | same => exact h
  | read | saddr | len | bufl | bufh | regidx | post | take => exact { h with }
  | init hb => exact { h with cfg_legal := .inr rfl, cfg_busy := fun _ => rfl }
  | write hb hm hl hr =>
    exact h.issue hb hm _ nofun rfl rfl rfl hl ⟨nofun, nofun⟩ fun _ => hr
  | readreg hb hm =>
    exact h.issue hb hm _ nofun rfl rfl rfl (by simp [State.readregTransaction]) ⟨fun _ => rfl, fun _ => rfl⟩ nofun

theorem BusNext.keeps_inv (h : Inv s) (ha : BusNext s t) : Inv t := by
  have waiting (hw : s.ph.waitsForBus = true) : s.busy = true ∧ s.ifg = .none := by
    refine ⟨h.busy_of_ph ?_, h.ifg_eq_none ?_ ?_⟩ <;> intro e <;> rw [e] at hw <;> cases hw
  cases ha with
  | same => exact h
  | addrNack hp | dataNack hp | dataLast hp =>
    obtain ⟨hb, hi⟩ := waiting (by rw [hp]; rfl)
    rw [hi]
    exact h.movePhase hb .hold _ nofun rfl rfl _ _ _ _
  | addrWrite hp hd =>
    obtain ⟨hb, hi⟩ := waiting (by rw [hp]; rfl)
    obtain ⟨hc, hl⟩ : s.txn.cursor = 0 ∧ s.txn.len ≠ 0 := by simpa [hp, Transaction.fits] using h.cursor
    have hlt : s.txn.cursor.toNat < s.txn.len.toNat := by rw [hc]; bv_omega
    rw [hi]
    exact h.movePhase hb .load _ nofun rfl (decide_eq_true hlt) _ _ _ _
  | addrRead hp hd =>
    obtain ⟨hb, hi⟩ := waiting (by rw [hp]; rfl)
    exact h.movePhase hb .rxbyte s.ifg nofun (by rw [hi]; rfl) (by simp [Transaction.fits, hd]) _ _ _ _
  | dataMore hp hc =>
    obtain ⟨hb, hi⟩ := waiting (by rw [hp]; rfl)
    rw [hi]
    exact h.movePhase hb .load _ nofun rfl (decide_eq_true hc) _ _ _ _
  | byte v hp =>
    obtain ⟨hb, hi⟩ := waiting (by rw [hp]; rfl)
    rw [hi]
    exact h.movePhase hb .hold _ nofun rfl rfl _ _ _ _

theorem EngineNext.keeps_inv (h : Inv s) (ha : EngineNext s t) : Inv t := by
  cases ha with
  | same => exact h
  | rx hf =>
    cases h.service hf with
    | rx hp hi =>
      have hne : s.ph ≠ .idle := by simp [hp]
      rw [hi]
      exact h.movePhase (h.busy_of_ph hne) s.ph _ hne (by rw [hp]; rfl) h.cursor _ _ _ _
  | tx b hf hb =>
    cases h.service hf with
    | tx hp hi => rw [hi]; exact { h.countByte hp with }
  | nack hf =>
    cases h.service hf with
    | nack hp hi => rw [hi]; exact h.complete hp true nofun
  | stop hf =>
    cases h.service hf with
    | stop hp hi => rw [hi]; exact h.complete hp s.nackseen nofun

theorem exec_keeps_inv {i : Instr} (h : Inv s) (e : exec i s = .next t) : Inv t := by
  cases ha : i.agent with
  | host =>
    obtain ⟨u, hu, hs, pc, lg, hlt, rfl⟩ := exec_host_cases ha e
    exact (hu.keeps_inv h).withHarness hs pc lg hlt
  | engine => exact (exec_engine_cases ha e).keeps_inv h
  | bus => exact (exec_bus_cases ha e).keeps_inv h
  | producers =>
    obtain ⟨m, -, rfl⟩ := exec_producers_cases ha e
    exact { h with }

/-! ## The step -/

theorem inv_nextTurn (h : Inv s) : Inv (nextTurn s).2 := by
  rw [nextTurn_snd]
  exact h.withSchedule _ _

/-- From a state of the invariant, every step that answers a state leads to one (R50). -/
theorem step_keeps_inv (h : Inv s) (e : step s = .next t) : Inv t := by
  have hn : Inv (nextTurn s).2 := inv_nextTurn h
  obtain ⟨i, -, e⟩ | ha := step_cases e
  · exact exec_keeps_inv hn e
  · rw [turnAction_of_noFault hn.noFault] at ha
    obtain rfl | ⟨a, b, -, rfl⟩ | ⟨-, rfl⟩ := agentAction_settle ha
    · exact hn
    · exact hn.storeByte a b
    · exact hn.powerOn

end Sys2Proof.Machine
end

section
/-! Programs that wait after each command (30_encoding.md section 5, R94): while BUSY the harness stands at `waitdone`,
so that CTRL is written with BUSY = 0 only and no command is refused as busy. -/

namespace Sys2Proof

/-! ## The instructions that start a transaction -/

/-- The two commands that set BUSY (R102, R103). -/
def Instr.starts : Instr → Bool
  | .i2cWrite | .i2cReadreg => true
  | _ => false

theorem decodeCommand_starts (v : Byte) : (decodeCommand v).starts = (v == 0x02 || v == 0x03) := by
  by_cases h2 : v = 0x02
  · subst h2; rfl
  by_cases h3 : v = 0x03
  · subst h3; rfl
  rw [beq_false_of_ne h2, beq_false_of_ne h3]
  unfold decodeCommand
  rw [if_neg h2, if_neg h3]
  repeat' split
  all_goals rfl

theorem decodeFields_starts (c : BitVec 5) (v : Byte) :
    (decodeFields c v).starts = (c == 0x10#5 && (v == 0x02 || v == 0x03)) := by
  by_cases hc : c = 0x10#5
  · subst hc; exact decodeCommand_starts v
  · rw [beq_false_of_ne hc, Bool.false_and]
    unfold decodeFields
    split
    case h_17 => exact absurd rfl hc
    all_goals rfl

/-- A write access starts a transaction exactly when `wr` of it may (R82, R91). -/
theorem decodeWord_writeWord_starts (off : Offset) (v : Byte) :
    (decodeWord (writeWord off v)).starts = (Stmt.wr off v).mayStart := by
  have hoff : ∀ off : Offset, (1#1 ++ off == 0x10#5) = (off == 0x0) := by decide
  rw [writeWord, decodeWord_accessWord, decodeFields_starts, hoff]
  rfl

theorem decodeWord_readWord_starts (off : Offset) (v : Byte) : (decodeWord (readWord off v)).starts = false := by
  have hoff : ∀ off : Offset, (0#1 ++ off == 0x10#5) = false := by decide
  rw [readWord, decodeWord_accessWord, decodeFields_starts, hoff, Bool.false_and]

/-- Each expansion waits after the command it gives (R93). -/
theorem commandsAreWaitedFor_expand (p : Machine.Pseudo) : commandsAreWaitedFor p.expand = true := by
  cases p <;> rfl

theorem commandsAreWaitedFor_flatMap_expand :
    ∀ ps : List Machine.Pseudo, commandsAreWaitedFor (ps.flatMap Machine.Pseudo.expand) = true
  | [] => rfl
  | p :: ps => commandsAreWaitedFor_append (commandsAreWaitedFor_expand p) (commandsAreWaitedFor_flatMap_expand ps)

end Sys2Proof

namespace Sys2Proof.Machine

variable {s t : State}

/-! ## What a step leaves of the program and of the schedule -/

theorem AccessNext.program (h : AccessNext s t) : t.prog = s.prog ∧ t.agenda = s.agenda ∧ t.hpc = s.hpc := by
  cases h <;> exact ⟨rfl, rfl, rfl⟩

theorem BusNext.program (h : BusNext s t) :
    t.prog = s.prog ∧ t.agenda = s.agenda ∧ t.hpc = s.hpc ∧ t.busy = s.busy := by
  cases h <;> exact ⟨rfl, rfl, rfl, rfl⟩

theorem State.complete_program (s : State) (c : Cause) : (s.complete c).prog = s.prog ∧
    (s.complete c).agenda = s.agenda ∧ (s.complete c).hpc = s.hpc ∧ ((s.complete c).busy = true → s.busy = true) := by
  obtain ⟨-, -, e⟩ | e := s.complete_cases c <;> rw [e]
  · exact ⟨rfl, rfl, rfl, id⟩
  · exact ⟨rfl, rfl, rfl, nofun⟩

theorem EngineNext.program (h : EngineNext s t) :
    t.prog = s.prog ∧ t.agenda = s.agenda ∧ t.hpc = s.hpc ∧ (t.busy = true → s.busy = true) := by
  cases h with
  | same | rx | tx => exact ⟨rfl, rfl, rfl, id⟩
  | nack | stop => exact State.complete_program _ _

/-- The other agents leave the program where it stands, and start no transaction. -/
theorem exec_other_program {i : Instr} (ha : i.agent ≠ .host) (e : exec i s = .next t) :
    t.prog = s.prog ∧ t.agenda = s.agenda ∧ t.hpc = s.hpc ∧ (t.busy = true → s.busy = true) := by
  cases hi : i.agent with
  | host => exact absurd hi ha
  | engine => exact (exec_engine_cases hi e).program
  | bus =>
    obtain ⟨hp, hg, hc, hb⟩ := (exec_bus_cases hi e).program
    exact ⟨hp, hg, hc, fun ht => hb ▸ ht⟩
  | producers =>
    obtain ⟨m, -, rfl⟩ := exec_producers_cases hi e
    exact ⟨rfl, rfl, rfl, id⟩

theorem exec_keeps_program {i : Instr} (e : exec i s = .next t) : t.prog = s.prog ∧ t.agenda = s.agenda := by
  by_cases ha : i.agent = .host
  · obtain ⟨u, hu, hs, pc, lg, hlt, rfl⟩ := exec_host_cases ha e
    obtain ⟨hp, hg, -⟩ := hu.program
    exact ⟨hp, hg⟩
  · obtain ⟨hp, hg, -⟩ := exec_other_program ha e
    exact ⟨hp, hg⟩

/-! ## The statements that start a transaction -/

theorem performAccess_busy {i : Instr} (hi : i.starts = false) (e : performAccess i s = .next t) : t.busy = s.busy := by
  cases i
  case i2cWrite | i2cReadreg => cases hi
  case i2cInit =>
    obtain ⟨-, h⟩ | ⟨-, h⟩ := execI2cInit_cases s
    · exact absurd (h.symm.trans e) (raise_ne_next _ _ _)
    · cases h.symm.trans e; rfl
  all_goals cases e
  all_goals rfl

theorem afterAccess_eq_next {r : Result} {f : State → State} (e : afterAccess r f = .next t) :
    ∃ u, r = .next u ∧ t = f u := by
  cases r with
  | next u => cases e; exact ⟨u, rfl, rfl⟩
  | fault | refused => cases e

/-- A host write that sets BUSY is one of the two commands, and leaves `hpc`. -/
theorem hostWrite_starts {off : Offset} {v : Byte} (hb : s.busy = false) (e : hostWrite off v s = .next t)
    (ht : t.busy = true) : (Stmt.wr off v).mayStart = true ∧ t.hpc = s.hpc := by
  refine ⟨?_, (performAccess_cases (decodeWord_isAccess _) e).program.2.2⟩
  rw [← decodeWord_writeWord_starts]
  refine Bool.of_not_eq_false fun hs => ?_
  rw [performAccess_busy hs e, hb] at ht
  cases ht

/-- A statement that sets BUSY is one that may, and the program goes on to the next. -/
theorem exec_stmt_starts {st : Stmt} {sp : Bool} (hb : s.busy = false) (e : exec (st.toInstr sp) s = .next t)
    (ht : t.busy = true) : st.mayStart = true ∧ t.hpc = s.hpc + 1 := by
  have quiet {P : Prop} (h : t.busy = s.busy) : P := by rw [h, hb] at ht; cases ht
  cases st with
  | wr off v =>
    obtain ⟨u, hu, rfl⟩ := afterAccess_eq_next e
    obtain ⟨hm, hc⟩ := hostWrite_starts hb hu ht
    exact ⟨hm, congrArg (· + 1) hc⟩
  | wrr off n =>
    obtain ⟨u, hu, rfl⟩ := afterAccess_eq_next e
    obtain ⟨hm, hc⟩ := hostWrite_starts hb hu ht
    exact ⟨(Bool.and_eq_true_iff.1 hm).1, congrArg (· + 1) hc⟩
  | rd n off =>
    obtain ⟨u, hu, rfl⟩ := afterAccess_eq_next e
    have hbu : u.busy = s.busy := performAccess_busy (decodeWord_readWord_starts off 0x00) hu
    exact quiet hbu
  | waitdone => cases (hostWaitdone_eq s).symm.trans e; exact quiet (by split <;> rfl)
  | sleep => cases (hostSleep_eq sp s).symm.trans e; exact quiet (by split <;> rfl)
  | beqz | bnez | beqi => cases e; exact quiet (by unfold State.branch; split <;> rfl)
  | li | addi | andi | jmp | log | halt => cases e; exact quiet rfl

/-! ## F_CMD_BUSY -/

/-- The result is F_CMD_BUSY: a command refused because a transaction is outstanding (R101 to R103). -/
def BusyRefused (r : Result) : Prop := ∃ after, r = .fault (.raised .cmdBusy after)

@[simp] theorem not_busyRefused_next (u : State) : ¬BusyRefused (.next u) := by simp [BusyRefused]

@[simp] theorem busyRefused_raise {c : FaultCode} : BusyRefused (raise c s) ↔ c = .cmdBusy := by
  simp [BusyRefused, eq_comm]

@[simp] theorem busyRefused_ite {p : Prop} [Decidable p] {r r' : Result} :
    BusyRefused (if p then r else r') ↔ if p then BusyRefused r else BusyRefused r' := by
  split <;> rfl

@[simp] theorem busyRefused_afterAccess {r : Result} {f : State → State} :
    BusyRefused (afterAccess r f) ↔ BusyRefused r := by
  cases r <;> simp [afterAccess, BusyRefused]

theorem performAccess_busyRefused {i : Instr} (h : BusyRefused (performAccess i s)) : s.busy = true := by
  cases i
  case i2cInit => simpa [performAccess, execI2cInit] using h
  case i2cWrite => simpa [performAccess, execI2cWrite] using h
  case i2cReadreg => simpa [performAccess, execI2cReadreg] using h
  all_goals
    obtain ⟨_, e⟩ := h
    cases e

/-- A statement is refused as busy only while BUSY, and `waitdone` never is. -/
theorem exec_stmt_busyRefused {st : Stmt} {sp : Bool} (h : BusyRefused (exec (st.toInstr sp) s)) :
    s.busy = true ∧ st ≠ .waitdone := by
  cases st with
  | wr | wrr | rd => exact ⟨performAccess_busyRefused (busyRefused_afterAccess.1 h), nofun⟩
  | waitdone => exact absurd (hostWaitdone_eq s ▸ h) (not_busyRefused_next _)
  | sleep => exact absurd (hostSleep_eq sp s ▸ h) (not_busyRefused_next _)
  | li | addi | andi | beqz | bnez | beqi | jmp | log | halt => exact absurd h (not_busyRefused_next _)

/-- The other agents write no command: the engine's one fault is F_MEM (R127). -/
theorem exec_other_not_busyRefused {i : Instr} (ha : i.agent ≠ .host) : ¬BusyRefused (exec i s) := by
  cases i
  case busAddrAck k => cases hd : s.txn.dir <;> simp [exec, execBusAddrAck, hd]
  case busDataAck k => simp [exec, execBusDataAck]
  case busRxByte v => simp [exec, execBusRxByte]
  case engSvcRx => simp [exec, execEngSvcRx]
  case engSvcTx => cases hb : s.nextTxByte <;> simp [exec, execEngSvcTx, hb]
  case engSvcNack => simp [exec, execEngSvcNack]
  case engSvcStop => simp [exec, execEngSvcStop]
  case prodEvIn m => exact not_busyRefused_next _
  all_goals exact absurd rfl ha

/-! ## The turns of a program's run -/

/-- What a turn comes to in `s` when no access is made outside the program: the statement at `hpc`, a step of another
agent, an idle turn, a store, or F_HPC. -/
inductive ProgramAction (s : State) : Action → Prop where
  | stmt (st : Stmt) (sp : Bool) (hst : s.prog[s.hpc]? = some st) : ProgramAction s (.run (st.toInstr sp))
  | other (i : Instr) (ha : i.agent ≠ .host) : ProgramAction s (.run i)
  | same : ProgramAction s (.settle s)
  | store (a : HostAddr) (b : Byte) : ProgramAction s (.settle (s.storeByte a b))
  | noStmt : ProgramAction s (.raise .hpc)

theorem agentAction_programRun {x : Turn} (hx : x.isProgramRun = true) (s : State) :
    ProgramAction s (agentAction x s) := by
  cases x with
  | access | mapped | powerOn => cases hx
  | host sp =>
    simp only [agentAction, hostAction]
    split
    · exact .same
    · split
      · exact .stmt _ sp ‹_›
      · exact .noStmt
  | bus k v =>
    simp only [agentAction, busAction]
    split
    case h_1 | h_2 | h_3 => exact .other _ nofun
    all_goals exact .same
  | engine =>
    simp only [agentAction, engineAction]
    split
    case h_5 => exact .same
    all_goals exact .other _ nofun
  | producer m =>
    simp only [agentAction, producerAction]
    split
    · exact .same
    · exact .other _ nofun
  | store a b => exact .store a b

/-! ## The program invariant -/

/-- While BUSY the statement at `hpc` is `waitdone`, which writes nothing. -/
theorem ProgramInv.not_busy_of_writesCtrl (h : ProgramInv s) {st : Stmt} (hst : s.prog[s.hpc]? = some st)
    (hw : st.writesCtrl = true) : s.busy = false := by
  refine Bool.of_not_eq_true fun hb => ?_
  cases (h.waits hb).symm.trans hst
  cases hw

theorem programInv_nextTurn (h : ProgramInv s) : ProgramInv (nextTurn s).2 := by
  obtain ⟨ts, n, e⟩ := nextTurn_frame s
  rw [e]
  exact ⟨h.machine.withSchedule ts n, h.program, h.waits⟩

/-- Held at `waitdone` while BUSY, and past a command only to the `waitdone` after it (R93, R201). -/
theorem ProgramInv.exec_stmt (h : ProgramInv s) {st : Stmt} {sp : Bool} (hst : s.prog[s.hpc]? = some st)
    (e : exec (st.toInstr sp) s = .next t) : ProgramInv t := by
  have hprog : t.prog = s.prog := (exec_keeps_program e).1
  refine ⟨exec_keeps_inv h.machine e, hprog ▸ h.program, fun ht => ?_⟩
  cases hb : s.busy with
  | true =>
    have hdone : ¬s.done = true := fun hd => h.machine.done_busy ⟨hd, hb⟩
    cases (h.waits hb).symm.trans hst
    cases (hostWaitdone_eq s).symm.trans e
    rw [if_neg hdone]
    exact h.waits hb
  | false =>
    obtain ⟨hm, hpc⟩ := exec_stmt_starts hb e ht
    rw [hprog, hpc]
    exact waitdone_after h.program hst hm

theorem ProgramInv.exec_other (h : ProgramInv s) {i : Instr} (ha : i.agent ≠ .host) (e : exec i s = .next t) :
    ProgramInv t := by
  obtain ⟨hprog, -, hpc, hb⟩ := exec_other_program ha e
  refine ⟨exec_keeps_inv h.machine e, hprog ▸ h.program, fun ht => ?_⟩
  rw [hprog, hpc]
  exact h.waits (hb ht)

theorem programInv_action (h : ProgramInv s) (hx : (nextTurn s).1.isProgramRun = true) :
    ProgramAction (nextTurn s).2 (turnAction (nextTurn s).1 (nextTurn s).2) := by
  rw [turnAction_of_noFault (programInv_nextTurn h).machine.noFault]
  exact agentAction_programRun hx _

theorem step_keeps_programInv (h : ProgramInv s) (hx : (nextTurn s).1.isProgramRun = true)
    (e : step s = .next t) : ProgramInv t := by
  have hn := programInv_nextTurn h
  have hact := programInv_action h hx
  obtain ⟨i, ha, e⟩ | ha := step_cases e <;> rw [ha] at hact
  · cases hact with
    | stmt st sp hst => exact hn.exec_stmt hst e
    | other _ hi => exact hn.exec_other hi e
  · cases hact with
    | same => exact hn
    | store a b => exact ⟨hn.machine.storeByte a b, hn.program, hn.waits⟩

theorem step_not_busyRefused (h : ProgramInv s) (hx : (nextTurn s).1.isProgramRun = true) :
    ¬BusyRefused (step s) := by
  have hn := programInv_nextTurn h
  have hact := programInv_action h hx
  generalize ha : turnAction (nextTurn s).1 (nextTurn s).2 = a at hact
  cases hact with
  | stmt st sp hst =>
    rw [step_run rfl ha]
    intro hr
    obtain ⟨hb, hne⟩ := exec_stmt_busyRefused hr
    exact hne (Option.some.inj (hst.symm.trans (hn.waits hb)))
  | other i hi => rw [step_run rfl ha]; exact exec_other_not_busyRefused hi
  | same | store => rw [step_settle rfl ha]; exact not_busyRefused_next _
  | noStmt => rw [step_raise rfl ha]; simp

theorem programInv_reset : ProgramInv State.reset := ⟨inv_reset, rfl, nofun⟩

/-- Settles O60: a statement that sets BUSY is followed by `waitdone`, which holds the program while BUSY, and no other
agent moves the program or sets BUSY. -/
theorem stepKeepsTheProgramInvariant : Obligations.StepKeepsTheProgramInvariant :=
  ⟨fun _ h hx => ⟨fun _ e => step_keeps_programInv h hx e, fun after e => step_not_busyRefused h hx ⟨after, e⟩,
    fun _ hst hw => h.not_busy_of_writesCtrl hst hw⟩, commandsAreWaitedFor_flatMap_expand, programInv_reset⟩

end Sys2Proof.Machine
end

section
/-! Runs of programs built of pseudo-instructions (30_encoding.md section 5, R94): the program invariant along a run. -/

namespace Sys2Proof.Machine

variable {s t : State}

/-- With no fault recorded, only taking the turn changes the schedule. -/
theorem step_agenda (hf : s.faults = []) (e : step s = .next t) : t.agenda = s.agenda.tail := by
  have hn : (nextTurn s).2.agenda = s.agenda.tail := by rw [nextTurn_snd]
  rw [← hn]
  obtain ⟨i, -, e⟩ | ha := step_cases e
  · exact (exec_keeps_program e).2
  · rw [turnAction_of_noFault ((nextTurn_faults s).trans hf)] at ha
    obtain rfl | ⟨a, b, -, rfl⟩ | ⟨-, rfl⟩ := agentAction_settle ha <;> rfl

/-- A run ends at the first fault or refusal. -/
theorem run_of_fault {f : Fault} (k : Nat) (h : step s = .fault f) : Host.Core.run core (k + 1) s = .fault f := by
  have h' : core.step s = .fault f := h
  simp only [Host.Core.run, h']

theorem run_of_refused {r : Refusal} (k : Nat) (h : step s = .refused r) :
    Host.Core.run core (k + 1) s = .refused r := by
  have h' : core.step s = .refused r := h
  simp only [Host.Core.run, h']

/-- A run with no access outside the program stays in the program invariant, and is never refused as busy (R94). -/
theorem run_keeps_programInv : ∀ (k : Nat) {s : State}, ProgramInv s → (∀ x ∈ s.agenda, x.isProgramRun = true) →
    k ≤ s.agenda.length → ¬BusyRefused (Host.Core.run core k s) ∧
      ∀ t, Host.Core.run core k s = .next t → ProgramInv t
  | 0, s, h, _, _ => ⟨not_busyRefused_next s, fun t e => by cases e; exact h⟩
  | k + 1, s, h, hx, hk => by
    have hturn : (nextTurn s).1.isProgramRun = true := by
      cases ha : s.agenda with
      | nil => simp [ha] at hk
      | cons x xs => rw [nextTurn_cons ha]; exact hx x (by simp [ha])
    cases e : step s with
    | next u =>
      have hu := step_agenda h.machine.noFault e
      rw [run_succ k e]
      apply run_keeps_programInv k (step_keeps_programInv h hturn e)
      · exact fun x hxu => hx x (List.mem_of_mem_tail (hu ▸ hxu))
      · rw [hu, List.length_tail]; omega
    | fault f => rw [run_of_fault k e]; exact ⟨e ▸ step_not_busyRefused h hturn, fun _ hr => by cases hr⟩
    | refused r => rw [run_of_refused k e]; exact ⟨e ▸ step_not_busyRefused h hturn, fun _ hr => by cases hr⟩

/-- Settles O59: the expansion of a list of pseudo-instructions is a program that waits after each command, so an idle
start has the program invariant and the run keeps it. -/
theorem pseudoProgramsAreNeverBusyFaults : Obligations.PseudoProgramsAreNeverBusyFaults := by
  rintro ps turns s hinv hb - hprog rfl hx k hk
  have hs : ProgramInv s := ⟨hinv, hprog ▸ commandsAreWaitedFor_flatMap_expand ps, fun ht => by simp [hb] at ht⟩
  obtain ⟨hnot, hrun⟩ := run_keeps_programInv k hs hx hk
  exact ⟨fun after e => hnot ⟨after, e⟩, fun t st e hst hw => (hrun t e).not_busy_of_writesCtrl hst hw⟩

end Sys2Proof.Machine
end

section
/-! Host access words (30_encoding.md section 3): the decode table of R81 and R82, and the reserved commands and offsets
(R83, R84). -/

namespace Sys2Proof

open Laws

/-! ## Writes to CTRL -/

/-- A word whose high part is `p` is `p` and its low part. -/
theorem eq_append_setWidth {m n : Nat} (p : BitVec m) (v : BitVec (m + n)) (h : v.toNat / 2 ^ n = p.toNat) :
    v = p ++ v.setWidth n := by
  apply BitVec.eq_of_toNat_eq
  rw [BitVec.toNat_append, BitVec.toNat_setWidth, ← Nat.shiftLeft_add_eq_or_of_lt (Nat.mod_lt _ (Nat.two_pow_pos n)),
    Nat.shiftLeft_eq, ← h, Nat.mul_comm, Nat.div_add_mod]

/-- A write of `v` to CTRL decodes to the row whose access word it is. -/
theorem decodeWord_ctrl {i : Instr} {v b : Byte} (hv : v = b) (hi : RoundTrip.Statement i)
    (he : encodeWord i = some (writeWord 0x0 b)) : decodeWord (0x1000 ||| v.setWidth 13) = i := by
  have hw : (0x1000 ||| v.setWidth 13 : AccessWord) = writeWord 0x0 v := accessWord_or 0x10#5 v
  rw [hw, hv]
  exact hi _ he

/-! The reserved rows: the range of each is the bytes with its high part (R83). -/

section
variable {v : Byte}

theorem decodeWord_ctrl_04_07 (h : 0x04 ≤ v ∧ v ≤ 0x07) :
    decodeWord (0x1000 ||| v.setWidth 13) = .ctrlReserved0407 (v.setWidth 2) :=
  decodeWord_ctrl (eq_append_setWidth (n := 2) 0b000001#6 v (by bv_omega)) (RoundTrip.ctrlReserved0407 _) rfl

theorem decodeWord_ctrl_08_0F (h : 0x08 ≤ v ∧ v ≤ 0x0F) :
    decodeWord (0x1000 ||| v.setWidth 13) = .ctrlReserved080F (v.setWidth 3) :=
  decodeWord_ctrl (eq_append_setWidth (n := 3) 0b00001#5 v (by bv_omega)) (RoundTrip.ctrlReserved080F _) rfl

theorem decodeWord_ctrl_10_1F (h : 0x10 ≤ v ∧ v ≤ 0x1F) :
    decodeWord (0x1000 ||| v.setWidth 13) = .ctrlReserved101F (v.setWidth 4) :=
  decodeWord_ctrl (eq_append_setWidth (n := 4) 0b0001#4 v (by bv_omega)) (RoundTrip.ctrlReserved101F _) rfl

theorem decodeWord_ctrl_20_3F (h : 0x20 ≤ v ∧ v ≤ 0x3F) :
    decodeWord (0x1000 ||| v.setWidth 13) = .ctrlReserved203F (v.setWidth 5) :=
  decodeWord_ctrl (eq_append_setWidth (n := 5) 0b001#3 v (by bv_omega)) (RoundTrip.ctrlReserved203F _) rfl

theorem decodeWord_ctrl_40_7F (h : 0x40 ≤ v ∧ v ≤ 0x7F) :
    decodeWord (0x1000 ||| v.setWidth 13) = .ctrlReserved407F (v.setWidth 6) :=
  decodeWord_ctrl (eq_append_setWidth (n := 6) 0b01#2 v (by bv_omega)) (RoundTrip.ctrlReserved407F _) rfl

theorem decodeWord_ctrl_80_FF (h : 0x80 ≤ v) :
    decodeWord (0x1000 ||| v.setWidth 13) = .ctrlReserved80FF (v.setWidth 7) :=
  decodeWord_ctrl (eq_append_setWidth (n := 7) 0b1#1 v (by bv_omega)) (RoundTrip.ctrlReserved80FF _) rfl

end

/-- Settles O2: a write to CTRL by its DATA, every other row by `(RW, OFF)` alone. -/
theorem accessTableDecodes : Obligations.AccessTableDecodes := fun v =>
  ⟨fun h => decodeWord_ctrl h RoundTrip.i2cNop rfl, fun h => decodeWord_ctrl h RoundTrip.i2cInit rfl,
    fun h => decodeWord_ctrl h RoundTrip.i2cWrite rfl, fun h => decodeWord_ctrl h RoundTrip.i2cReadreg rfl,
    decodeWord_ctrl_04_07, decodeWord_ctrl_08_0F, decodeWord_ctrl_10_1F, decodeWord_ctrl_20_3F,
    decodeWord_ctrl_40_7F, decodeWord_ctrl_80_FF,
    decodeWord_or 0x11 v rfl, decodeWord_or 0x12 v rfl, decodeWord_or 0x13 v rfl, decodeWord_or 0x14 v rfl,
    decodeWord_or 0x15 v rfl, decodeWord_or 0x16 v rfl, decodeWord_or 0x17 v rfl, decodeWord_or 0x18 v rfl,
    decodeWord_or 0x19 v rfl, decodeWord_or 0x1A v rfl, decodeWord_or 0x1B v rfl, decodeWord_or 0x1C v rfl,
    decodeWord_or 0x1D v rfl, decodeWord_or 0x1E v rfl, decodeWord_or 0x1F v rfl,
    decodeWord_or 0x00 v rfl, decodeWord_or 0x01 v rfl, decodeWord_or 0x02 v rfl, decodeWord_or 0x03 v rfl,
    decodeWord_or 0x04 v rfl, decodeWord_or 0x05 v rfl, decodeWord_or 0x06 v rfl, decodeWord_or 0x07 v rfl,
    decodeWord_or 0x08 v rfl, decodeWord_or 0x09 v rfl, decodeWord_or 0x0A v rfl, decodeWord_or 0x0B v rfl,
    decodeWord_or 0x0C v rfl, decodeWord_or 0x0D v rfl, decodeWord_or 0x0E v rfl, decodeWord_or 0x0F v rfl⟩

/-- An access to offset 0xE or 0xF decodes to the reserved row, its write bit and bit 8 kept (R84). -/
theorem decodeWord_reservedOffset (write : Bool) {off : Offset} (x : Byte) (h : 0xE ≤ off) :
    decodeWord (accessWord (BitVec.ofBool write ++ off) x) = .offReserved write (off.getLsbD 0) x := by
  obtain rfl | rfl : off = 0xE ∨ off = 0xF := by bv_omega
  · cases write <;> exact decodeWord_accessWord _ x
  · cases write <;> exact decodeWord_accessWord _ x

end Sys2Proof

namespace Sys2Proof.Machine

/-- The meaning of a reserved command, at each row: F_RESERVED_CMD in the state as it is (R83). -/
theorem exec_reservedCommand (s : State) {v : Byte} (h : 0x04 ≤ v) :
    exec (decodeWord (0x1000 ||| v.setWidth 13)) s = raise .reservedCmd s := by
  by_cases h7 : v ≤ 0x07
  · rw [decodeWord_ctrl_04_07 ⟨h, h7⟩]; rfl
  by_cases hF : v ≤ 0x0F
  · rw [decodeWord_ctrl_08_0F ⟨by bv_omega, hF⟩]; rfl
  by_cases h1F : v ≤ 0x1F
  · rw [decodeWord_ctrl_10_1F ⟨by bv_omega, h1F⟩]; rfl
  by_cases h3F : v ≤ 0x3F
  · rw [decodeWord_ctrl_20_3F ⟨by bv_omega, h3F⟩]; rfl
  by_cases h7F : v ≤ 0x7F
  · rw [decodeWord_ctrl_40_7F ⟨by bv_omega, h7F⟩]; rfl
  · rw [decodeWord_ctrl_80_FF (by bv_omega)]; rfl

/-- Settles O18: by the range of DATA, and each reserved row's own meaning. -/
theorem reservedCommandsFault : Obligations.ReservedCommandsFault := fun s =>
  ⟨fun _ h => exec_reservedCommand s h, fun _ => rfl, fun _ => rfl, fun _ => rfl, fun _ => rfl, fun _ => rfl,
    fun _ => rfl⟩

/-- The meaning of OFF.RESERVED (R84). -/
theorem exec_offReserved (write odd : Bool) (x : Byte) (s : State) :
    exec (.offReserved write odd x) s = raise .reservedOff s := rfl

/-- Settles O19: offsets 0xE and 0xF decode to OFF.RESERVED, whatever the other bits are. -/
theorem reservedOffsetsFault : Obligations.ReservedOffsetsFault := by
  refine fun s => ⟨fun write off x h => ?_, fun write odd x => exec_offReserved write odd x s⟩
  rw [decodeWord_reservedOffset write x h]
  exact exec_offReserved write _ x s

end Sys2Proof.Machine
end

section
/-! The bus and the producers (30_encoding.md R89): the row their turn executes (R120, R151), and the slave's answer to
the address byte (R87, R122). -/

namespace Sys2Proof.Machine

/-- Settles O10: the bus agent's row is its phase's, the producers' is PROD.EV_IN of a non-empty mask; in every other
case the turn settles. -/
theorem agentTurnsRunEnabledRow : Obligations.AgentTurnsRunEnabledRow := by
  refine fun s ts hf => ⟨fun k v h => ⟨fun hp => ?_, fun hp => ?_, fun hp => ?_, ?_⟩, fun m h hm => ?_, fun h => ?_⟩
  · exact step_agent_run hf h (by simp [agentAction, busAction, hp])
  · exact step_agent_run hf h (by simp [agentAction, busAction, hp])
  · exact step_agent_run hf h (by simp [agentAction, busAction, hp])
  · rintro (hp | hp | hp) <;> exact step_agent_settle hf h (by simp [agentAction, busAction, hp])
  · exact step_agent_run hf h (if_neg hm)
  · exact step_agent_settle hf h (by simp [agentAction, producerAction])

/-- The direction bit of the address byte: 1 = read (R40). -/
theorem Dir.toNat_bit (d : Dir) : d.bit.toNat = if d = .read then 1 else 0 := by cases d <;> rfl

/-- The address byte is the 7-bit address above the direction bit (R87). -/
theorem Transaction.toNat_addressByte (x : Transaction) :
    x.addressByte.toNat = 2 * x.addr.toNat + if x.dir = .read then 1 else 0 := by
  rw [addressByte, BitVec.toNat_append, ← Nat.shiftLeft_add_eq_or_of_lt x.dir.bit.isLt, Nat.shiftLeft_eq, Nat.mul_comm,
    Dir.toNat_bit]

/-- Settles O32: the address byte, and the three answers in PH = ADDR. -/
theorem addressAnswerMovesThePhase : Obligations.AddressAnswerMovesThePhase := by
  refine fun s hp => ⟨s.txn.toNat_addressByte, ?_, fun hd => ?_, fun hd => ?_⟩
  · simp [exec, execBusAddrAck, hp, State.emit]
  · simp [exec, execBusAddrAck, hp, hd, State.emit]
  · simp [exec, execBusAddrAck, hp, hd, State.emit]

end Sys2Proof.Machine
end

section
/-! The commands (40_i2c_commands.md): what INIT, WRITE and READREG answer at each of their checks (R101 to R103), and
the writes that have no effect (R100, R187 to R193). -/

namespace Sys2Proof.Machine

open Laws

variable {s : State}

/-! ## I2C.INIT (R101) -/

theorem exec_i2cInit_busy (hb : s.busy = true) : exec .i2cInit s = raise .cmdBusy s := if_pos hb

theorem exec_i2cInit_idle (hb : s.busy = false) :
    exec .i2cInit s = .next { s with cfg := .afterInit, clkdiv := s.par.pClkdiv } := if_neg (by simp [hb])

/-- INIT changes nothing where it has succeeded: BUSY is still 0, and the values it writes are those already there. -/
theorem exec_i2cInit_idempotent {t : State} (e : exec .i2cInit s = .next t) : exec .i2cInit t = .next t := by
  obtain ⟨-, h⟩ | ⟨hb, h⟩ := execI2cInit_cases s
  · exact absurd (h.symm.trans e) (raise_ne_next _ _ _)
  · cases h.symm.trans e
    exact exec_i2cInit_idle hb

/-! ## I2C.WRITE (R102) -/

theorem exec_i2cWrite_busy (hb : s.busy = true) : exec .i2cWrite s = raise .cmdBusy s := if_pos hb

theorem exec_i2cWrite_notInit (hb : s.busy = false) (hm : s.cfg.mst = false) :
    exec .i2cWrite s = raise .notInit s := by
  simp [exec, execI2cWrite, hb, hm]

/-- Once BUSY and MST pass, LEN is checked, then the end of the buffer. -/
theorem exec_i2cWrite_ready (hb : s.busy = false) (hm : s.cfg.mst = true) :
    exec .i2cWrite s = if s.len = 0 then raise .lenZero s else if 0x10000 < s.bufEnd then raise .bufRange s
      else .next (s.issue s.writeTransaction) := by
  simp [exec, execI2cWrite, hb, hm]

/-! ## I2C.READREG (R103) -/

theorem exec_i2cReadreg_busy (hb : s.busy = true) : exec .i2cReadreg s = raise .cmdBusy s := if_pos hb

theorem exec_i2cReadreg_notInit (hb : s.busy = false) (hm : s.cfg.mst = false) :
    exec .i2cReadreg s = raise .notInit s := by
  simp [exec, execI2cReadreg, hb, hm]

theorem exec_i2cReadreg_ready (hb : s.busy = false) (hm : s.cfg.mst = true) :
    exec .i2cReadreg s = .next (s.issue s.readregTransaction) := by
  simp [exec, execI2cReadreg, hb, hm]

/-! ## The statements -/

/-- Settles O15: the two cases of BUSY; a second INIT finds BUSY still 0. -/
theorem initConfigures : Obligations.InitConfigures :=
  ⟨RoundTrip.i2cInit _ rfl, fun _ => ⟨exec_i2cInit_idle, rfl, exec_i2cInit_busy, fun _ => exec_i2cInit_idempotent⟩⟩

/-- Settles O16: the checks in their order, each of the later ones where those before it pass. -/
theorem writeCommandStartsTransaction : Obligations.WriteCommandStartsTransaction := by
  refine ⟨RoundTrip.i2cWrite _ rfl, fun s => ⟨exec_i2cWrite_busy, exec_i2cWrite_notInit, fun hb hm hl => ?_,
    fun hb hm hl hr => ?_, fun hb hm hl hr => ?_⟩⟩
  all_goals rw [exec_i2cWrite_ready hb hm]
  · exact if_pos hl
  · exact (if_neg hl).trans (if_pos hr)
  · exact (if_neg hl).trans (if_neg (Nat.not_lt.2 hr))

/-- Settles O17: its two checks, LEN and the buffer registers not among them. -/
theorem readregCommandStartsStageW : Obligations.ReadregCommandStartsStageW :=
  ⟨RoundTrip.i2cReadreg _ rfl, fun _ => ⟨exec_i2cReadreg_busy, exec_i2cReadreg_notInit, exec_i2cReadreg_ready⟩⟩

/-- Settles O21: the meaning of NOP and of each write to a read-only offset is the state as it is, and the rows are
those of the decode table. -/
theorem nopAndReadOnlyWritesHaveNoEffect : Obligations.NopAndReadOnlyWritesHaveNoEffect := fun _ v =>
  ⟨rfl, rfl, rfl, rfl, rfl, rfl, rfl, rfl, RoundTrip.i2cNop _ rfl, decodeWord_or 0x11 v rfl, decodeWord_or 0x17 v rfl,
    decodeWord_or 0x18 v rfl, decodeWord_or 0x19 v rfl, decodeWord_or 0x1A v rfl, decodeWord_or 0x1B v rfl,
    decodeWord_or 0x1D v rfl⟩

end Sys2Proof.Machine
end

section
/-! The bus engine (41_i2c_bus_engine.md): the slave's answer to a data byte and the byte of a read (R123, R124), the
flag the engine services (R125), the four services (R126 to R129), and the end of a run (R216). -/

namespace Sys2Proof.Machine

variable {s : State} {ts : List Turn}

/-! ## The data bytes on the bus (R123, R124) -/

theorem exec_busDataAck_nack (hp : s.ph = .txbyte) : exec (.busDataAck false) s = .next
    { s.emit [.d s.txshift false, .p] with ifg := { s.ifg with nackif := true }, ph := .hold } := if_pos hp

/-- An acknowledged byte asks for the next one, or is followed by the auto-STOP when it was the last. -/
theorem exec_busDataAck_ack (hp : s.ph = .txbyte) : exec (.busDataAck true) s =
    if s.txn.cursor < s.txn.len then
      .next { s.emit [.d s.txshift true] with ifg := { s.ifg with txif := true }, ph := .load }
    else .next { s.emit [.d s.txshift true, .p] with ifg := { s.ifg with stpif := true }, ph := .hold } := if_pos hp

/-- Settles O33: the NACK, and the ACK with the cursor below the length and not below it. -/
theorem dataAnswerMovesThePhase : Obligations.DataAnswerMovesThePhase := by
  refine fun s hp => ⟨exec_busDataAck_nack hp, fun hc => ?_, fun hc => ?_⟩
  all_goals rw [exec_busDataAck_ack hp]
  · exact if_pos hc
  · exact if_neg (BitVec.not_lt.2 hc)

/-- Settles O34: PH = RXBYTE enables the row, and its meaning is the statement's. -/
theorem receivedByteRaisesBothFlags : Obligations.ReceivedByteRaisesBothFlags := fun _ _ hp => if_pos hp

/-! ## The flag the engine services (R125) -/

theorem State.selectedFlag_eq_rx : s.selectedFlag = some .rx ↔ s.serviceable .rx = true := by
  simp [State.selectedFlag, ite_eq_iff]

theorem State.selectedFlag_eq_tx :
    s.selectedFlag = some .tx ↔ s.serviceable .tx = true ∧ s.serviceable .rx = false := by
  simp [State.selectedFlag, ite_eq_iff, and_comm]

theorem State.selectedFlag_eq_nack : s.selectedFlag = some .nack ↔
    s.serviceable .nack = true ∧ s.serviceable .rx = false ∧ s.serviceable .tx = false := by
  simp [State.selectedFlag, ite_eq_iff, and_comm, and_left_comm]

theorem State.selectedFlag_eq_stop : s.selectedFlag = some .stop ↔ s.serviceable .stop = true ∧
    s.serviceable .rx = false ∧ s.serviceable .tx = false ∧ s.serviceable .nack = false := by
  simp [State.selectedFlag, ite_eq_iff, and_assoc, and_comm, and_left_comm]

/-- The row that services a flag. -/
def Flag.service : Flag → Instr
  | .rx => .engSvcRx
  | .tx => .engSvcTx
  | .stop => .engSvcStop
  | .nack => .engSvcNack

theorem engineAction_of_selected {f : Flag} (h : s.selectedFlag = some f) : engineAction s = .run f.service := by
  cases f <;> simp [engineAction, h, Flag.service]

theorem engineAction_of_none (h : s.selectedFlag = none) : engineAction s = .settle s := by simp [engineAction, h]

/-- An engine turn is the service of the selected flag: using the turn up changes neither flags nor enables. -/
theorem step_engine_selected (hf : s.faults = []) (h : s.agenda = .engine :: ts) {f : Flag}
    (hs : s.selectedFlag = some f) : step s = exec f.service { s with agenda := ts } :=
  step_agent_run hf h (engineAction_of_selected (s := { s with agenda := ts }) hs)

theorem step_engine_idle (hf : s.faults = []) (h : s.agenda = .engine :: ts) (hs : s.selectedFlag = none) :
    step s = .next { s with agenda := ts } :=
  step_agent_settle hf h (engineAction_of_none (s := { s with agenda := ts }) hs)

/-- Settles O35: what selects each flag, and the engine's turn with each flag selected and with none. -/
theorem engineServicesFlagsInOrder : Obligations.EngineServicesFlagsInOrder := fun _ _ hf h =>
  ⟨State.selectedFlag_eq_rx, State.selectedFlag_eq_tx, State.selectedFlag_eq_nack, State.selectedFlag_eq_stop,
    step_engine_selected hf h, step_engine_selected hf h, step_engine_selected hf h, step_engine_selected hf h,
    step_engine_idle hf h⟩

/-! ## The receive service (R126) -/

/-- Settles O36: RXIF selected enables the row, and its meaning is the statement's. -/
theorem receiveServiceFillsRxdata : Obligations.ReceiveServiceFillsRxdata := fun _ hs => if_pos hs

/-! ## The transmit service (R127) -/

theorem State.nextTxByte_mem (hm : s.txn.src = .mem) : s.nextTxByte = s.memRead s.txn.byteAddr := by
  rw [State.nextTxByte, hm]

theorem State.nextTxByte_reg (hr : s.txn.src = .reg) : s.nextTxByte = some s.txn.reg := by rw [State.nextTxByte, hr]

/-- The service sends the byte there is to load. -/
theorem exec_engSvcTx_some (hs : s.selectedFlag = some .tx) {b : Byte} (hb : s.nextTxByte = some b) :
    exec .engSvcTx s = .next { s with
      txshift := b, txn := { s.txn with cursor := s.txn.cursor + 1 }, ifg := { s.ifg with txif := false },
      ph := .txbyte } := by
  simp [exec, execEngSvcTx, hs, hb]

theorem exec_engSvcTx_none (hs : s.selectedFlag = some .tx) (hb : s.nextTxByte = none) :
    exec .engSvcTx s = raise .mem s := by
  simp [exec, execEngSvcTx, hs, hb]

/-- Settles O37: the byte to load is that of host memory where MEMWIN holds its address, none elsewhere, and `T.reg`
when the source is the register. -/
theorem transmitServiceLoadsTheByte : Obligations.TransmitServiceLoadsTheByte := fun _ hs =>
  ⟨fun hm hw => exec_engSvcTx_some hs ((State.nextTxByte_mem hm).trans (State.memRead_of_inWindow hw)),
    fun hm hw => exec_engSvcTx_none hs ((State.nextTxByte_mem hm).trans (State.memRead_of_not_inWindow hw)),
    fun hr => exec_engSvcTx_some hs (State.nextTxByte_reg hr)⟩

/-! ## The services that complete a stage (R128 to R130) -/

theorem exec_engSvcNack_selected (hs : s.selectedFlag = some .nack) : exec .engSvcNack s = .next
    (State.complete { s with ifg := { s.ifg with nackif := false, stpif := false }, nackseen := true } .nack) :=
  if_pos hs

theorem exec_engSvcStop_selected (hs : s.selectedFlag = some .stop) : exec .engSvcStop s = .next
    (State.complete { s with ifg := { s.ifg with stpif := false } } .stop) := if_pos hs

/-- A stage is W or R, so what is not stage W of a READREG is finished. -/
theorem State.complete_of_stageR (c : Cause) (h : s.txn.cmd ≠ .readreg ∨ s.txn.stage = .r) :
    s.complete c = s.finish c :=
  State.complete_final c (h.imp_right fun hr hw => by rw [hr] at hw; cases hw)

/-- Settles O38: the service completes the stage, which starts stage R or finishes. -/
theorem nackServiceCompletes : Obligations.NackServiceCompletes := fun _ hs =>
  ⟨fun hc hw => (exec_engSvcNack_selected hs).trans (congrArg Host.Outcome.next (State.complete_stageW .nack hc hw)),
    fun h => (exec_engSvcNack_selected hs).trans (congrArg Host.Outcome.next (State.complete_of_stageR .nack h))⟩

/-- Settles O39: the service completes the stage, which starts stage R or finishes. -/
theorem stopServiceCompletes : Obligations.StopServiceCompletes := fun _ hs =>
  ⟨fun hc hw => (exec_engSvcStop_selected hs).trans (congrArg Host.Outcome.next (State.complete_stageW .stop hc hw)),
    fun h => (exec_engSvcStop_selected hs).trans (congrArg Host.Outcome.next (State.complete_of_stageR .stop h))⟩

/-! ## The end of a run (R216) -/

theorem State.isFinal_iff :
    s.isFinal = true ↔ s.halted = true ∧ s.busy = false ∧ s.ifg = .none ∧ s.faults = [] := by
  simp [State.isFinal, and_assoc]

theorem hostAction_of_halted (sp : Bool) (h : s.halted = true) : hostAction sp s = .settle s := if_pos h

theorem busAction_of_idle (k : Bool) (v : Byte) (h : s.ph = .idle) : busAction k v s = .settle s := by
  simp [busAction, h]

/-- Settles O58: the host has halted (R214), the bus is idle because BUSY is 0 (R120), and no flag is there for the
engine to select (R125). -/
theorem finalStatesStay : Obligations.FinalStatesStay := by
  intro s x ts hinv hfin ha hx
  obtain ⟨hh, hb, hi, hf⟩ := State.isFinal_iff.1 hfin
  obtain ⟨sp, rfl⟩ | ⟨k, v, rfl⟩ | rfl := hx
  · exact step_agent_settle hf ha (hostAction_of_halted sp hh)
  · exact step_agent_settle hf ha (busAction_of_idle k v (hinv.idle_iff.2 hb))
  · exact step_engine_idle hf ha (State.selectedFlag_of_none hi)

end Sys2Proof.Machine
end

section
/-! The event channel (42_event_channel.md): the posts (R151, R152), the take (R153), the reads of registers with
unimplemented bits (R154, R177, R184, R185), and that the two units share no state (R159). -/

namespace Sys2Proof.Machine

open Laws

variable {s : State}

/-! ## BusEngine does not see EVBITS (R159) -/

/-- A branch on a condition that does not speak of EVBITS. -/
theorem withEventBits_ite (e : BitVec 4) (p : Prop) [Decidable p] (a b : Result) :
    withEventBits e (if p then a else b) = if p then withEventBits e a else withEventBits e b :=
  apply_ite (withEventBits e) p a b

theorem withEventBits_next (e : BitVec 4) (s : State) :
    withEventBits e (.next s) = .next { s with evbits := e } := rfl

theorem State.complete_withEventBits (s : State) (c : Cause) (e : BitVec 4) :
    State.complete { s with evbits := e } c = { s.complete c with evbits := e } := by
  simp only [State.complete]
  split <;> rfl

/-- The slave's answer to the address byte, by the direction of the transaction (R122). -/
theorem execBusAddrAck_withEventBits (k : Bool) (s : State) (e : BitVec 4) :
    execBusAddrAck k { s with evbits := e } = withEventBits e (execBusAddrAck k s) := by
  simp only [execBusAddrAck, withEventBits_ite]
  cases s.txn.dir <;> rfl

/-- The byte to load does not come from EVBITS, so neither does the fault (R127). -/
theorem execEngSvcTx_withEventBits (s : State) (e : BitVec 4) :
    execEngSvcTx { s with evbits := e } = withEventBits e (execEngSvcTx s) := by
  have hb : State.nextTxByte { s with evbits := e } = s.nextTxByte := rfl
  simp only [execEngSvcTx, withEventBits_ite, hb]
  cases s.nextTxByte <;> rfl

/-- A BusEngine row does the same whatever EVBITS is, and passes it through: no condition it branches on reads it. -/
theorem exec_withEventBits {i : Instr} (h : i.isBusEngine = true) (s : State) (e : BitVec 4) :
    exec i { s with evbits := e } = withEventBits e (exec i s) := by
  cases i
  case i2cNop => rfl
  case i2cInit | i2cWrite | i2cReadreg =>
    simp only [exec, execI2cInit, execI2cWrite, execI2cReadreg, withEventBits_ite]
    rfl
  case busAddrAck k => exact execBusAddrAck_withEventBits k s e
  case busDataAck | busRxByte =>
    simp only [exec, execBusDataAck, execBusRxByte, withEventBits_ite]
    rfl
  case engSvcRx =>
    simp only [exec, execEngSvcRx, withEventBits_ite]
    rfl
  case engSvcTx => exact execEngSvcTx_withEventBits s e
  case engSvcNack | engSvcStop =>
    simp only [exec, execEngSvcNack, execEngSvcStop, withEventBits_ite, withEventBits_next,
      ← State.complete_withEventBits]
    rfl
  all_goals cases h

/-- EVBITS replaced by what it is already: the row passes it through. -/
theorem exec_keeps_evbits {i : Instr} {t : State} (h : i.isBusEngine = true) (e : exec i s = .next t) :
    t.evbits = s.evbits := by
  have hw : exec i s = withEventBits s.evbits (exec i s) := exec_withEventBits h s s.evbits
  rw [e, withEventBits_next] at hw
  injection hw with ht
  rw [ht]

/-- Settles O31: each BusEngine row passes EVBITS through; each EventChannel row, in the statement's order, is given by
what it makes of EVBITS and what it returns. -/
theorem unitsShareNoState : Obligations.UnitsShareNoState := by
  refine ⟨fun i s e h => exec_withEventBits h s e, fun i s t => exec_keeps_evbits, fun x v m => ?_⟩
  simp only [List.forall_mem_cons]
  exact ⟨⟨takenRest, fun p _ => takenByte p, fun _ => rfl⟩, ⟨(· ||| v.setWidth 4), fun _ b => b, fun _ => rfl⟩,
    ⟨id, fun p _ => eventByte p, fun _ => rfl⟩, ⟨(· ||| m), fun _ b => b, fun _ => rfl⟩,
    ⟨id, fun _ _ => 0x00, fun _ => rfl⟩, ⟨id, fun _ b => b, fun _ => rfl⟩, ⟨id, fun _ b => b, fun _ => rfl⟩,
    List.forall_mem_nil _⟩

/-! ## The bytes of registers with unimplemented bits (R34 to R36) -/

/-- CFG as a byte, bit by bit (R34). -/
theorem Cfg.toByte_bits (c : Cfg) :
    c.toByte.getLsbD 0 = c.mst ∧ c.toByte.getLsbD 1 = c.a7 ∧ c.toByte.getLsbD 2 = c.astp ∧
      c.toByte.getLsbD 3 = false ∧ c.toByte.getLsbD 4 = c.ieRx ∧ c.toByte.getLsbD 5 = c.ieTx ∧
      c.toByte.getLsbD 6 = c.ieStp ∧ c.toByte.getLsbD 7 = c.ieNack := by
  simp only [Cfg.toByte, BitVec.getLsbD_append]
  simp

/-- IFG as a byte, its implemented bits (R35). -/
theorem Ifg.toByte_bits (f : Ifg) :
    f.toByte.getLsbD 0 = f.rxif ∧ f.toByte.getLsbD 1 = f.txif ∧ f.toByte.getLsbD 2 = f.stpif ∧
      f.toByte.getLsbD 3 = f.nackif := by
  simp only [Ifg.toByte, Ifg.bits, BitVec.getLsbD_append]
  simp

theorem Ifg.toByte_high (f : Ifg) : f.toByte.extractLsb' 4 4 = 0 := extract_high 0#4 f.bits

theorem eventByte_eq_append (v : BitVec 4) : eventByte v = 0#4 ++ v := BitVec.setWidth_eq_append (by omega)

/-- EVBITS as a byte: the bits, and zeroes above them (R36). -/
theorem eventByte_low (v : BitVec 4) : (eventByte v).extractLsb' 0 4 = v := by
  rw [eventByte_eq_append, extract_low]

theorem eventByte_high (v : BitVec 4) : (eventByte v).extractLsb' 4 4 = 0 := by
  rw [eventByte_eq_append]
  exact extract_high 0#4 v

/-- Settles O23: each read returns the register's byte, and the bits of that byte. -/
theorem fieldReadsReturnTheBits : Obligations.FieldReadsReturnTheBits := by
  intro s x
  refine ⟨⟨0#1 ++ s.saddr, rfl, ?_, extract_low 0#1 s.saddr⟩, ⟨s.cfg.toByte, rfl, s.cfg.toByte_bits⟩,
    ⟨s.ifg.toByte, rfl, ?_⟩, ⟨eventByte s.evbits, rfl, eventByte_low _, eventByte_high _⟩,
    RoundTrip.rdSaddr 0 _ rfl, RoundTrip.rdCfg 0 _ rfl, RoundTrip.rdIfg 0 _ rfl, RoundTrip.rdEvbits 0 _ rfl⟩
  · simp only [BitVec.getLsbD_append]
    simp
  · obtain ⟨hr, ht, hs, hn⟩ := s.ifg.toByte_bits
    exact ⟨hr, ht, hs, hn, s.ifg.toByte_high⟩

/-! ## Posts (R151, R152) -/

/-- Two posts, one after the other, are the post of both masks. -/
theorem State.post_post (s : State) (m n : BitVec 4) : (s.post m).post n = s.post (m ||| n) := by
  simp [State.post, BitVec.or_assoc]

theorem State.statusByte_evpend (s : State) : s.statusByte.getLsbD 5 = s.evpend := by
  simp only [State.statusByte, BitVec.getLsbD_append]
  simp

theorem State.evpend_post {m : BitVec 4} (s : State) (h : m ≠ 0) : (s.post m).evpend = true := by
  rw [State.evpend, bne_iff_ne]
  exact fun h0 => h (BitVec.or_eq_zero_iff.1 h0).2

/-- The low four bits of EV.POST's byte, as the spec writes them (R152). -/
theorem exec_evPost (v : Byte) (s : State) : exec (.evPost v) s = .next (s.post (v.extractLsb' 0 4)) := by
  rw [← BitVec.setWidth_eq_extractLsb' (by omega)]
  rfl

/-- Settles O26: the two posts, the EVPEND bit of STATUS after a producer's, and one post after the other. -/
theorem postsOrIntoEventBits : Obligations.PostsOrIntoEventBits := by
  refine fun s v m => ⟨exec_evPost v s, rfl, decodeWord_or 0x1C v rfl, fun hm t e => ?_, s.post m, rfl, ?_⟩
  · cases e
    exact (State.statusByte_evpend _).trans (s.evpend_post hm)
  · rw [exec_evPost, State.post_post]
    rfl

/-! ## The take (R153) -/

/-- `HP(v)` is the pending kind above which none is pending (R150). -/
theorem highestPending_eq_some : ∀ (v : BitVec 4) (k : Fin 4), v.getLsbD k.val = true →
    (∀ j : Fin 4, k < j → v.getLsbD j.val = false) → highestPending v = some k := by decide

theorem exec_evTake_empty (x : Byte) (h : s.evbits = 0) : exec (.evTake x) s = .next { s with rdata := 0x00 } := by
  have hn := (highestPending_none s.evbits).2 h
  simp [exec, execEvTake, takenRest, takenByte, hn]

theorem exec_evTake_pending (x : Byte) {k : Fin 4} (h : highestPending s.evbits = some k) :
    exec (.evTake x) s = .next { s with rdata := takeCode k, evbits := s.evbits &&& ~~~eventMask k } := by
  simp [exec, execEvTake, takenRest, takenByte, h]

/-- Settles O27: no event pending, and the highest one pending. -/
theorem takeReturnsTheHighestEvent : Obligations.TakeReturnsTheHighestEvent :=
  ⟨RoundTrip.evTake 0 _ rfl, fun s x => ⟨exec_evTake_empty x, fun k hk hj =>
    exec_evTake_pending x (highestPending_eq_some s.evbits k hk hj)⟩⟩

end Sys2Proof.Machine
end

section
/-! Plain register accesses (43_register_access.md): the writes of the programming registers (R170 to R174), the reads
of whole registers (R175, R178 to R183, R186), and STATUS, composed at the read (R176). -/

namespace Sys2Proof.Machine

open Laws

/-! ## Writes of the programming registers (R170 to R174) -/

/-- SADDR takes the low seven bits, as the spec writes them: bit 7 is dropped (R170). -/
theorem exec_wrSaddr (v : Byte) (s : State) : exec (.wrSaddr v) s = .next { s with saddr := v.extractLsb' 0 7 } := by
  rw [← BitVec.setWidth_eq_extractLsb' (by omega)]
  rfl

/-- Settles O20: SADDR by `exec_wrSaddr`, every other write by its row's meaning, and the rows of the decode table. -/
theorem programmingWritesStore : Obligations.ProgrammingWritesStore := fun s v =>
  ⟨exec_wrSaddr v s, rfl, rfl, rfl, rfl, decodeWord_or 0x12 v rfl, decodeWord_or 0x13 v rfl, decodeWord_or 0x14 v rfl,
    decodeWord_or 0x15 v rfl, decodeWord_or 0x16 v rfl⟩

/-! ## Reads of whole registers (R175, R178 to R183, R186) -/

/-- Settles O22: the meaning of each row is the return of that byte, and each access word is its row's. -/
theorem plainReadsReturnTheRegister : Obligations.PlainReadsReturnTheRegister := fun _ _ =>
  ⟨rfl, rfl, rfl, rfl, rfl, rfl, rfl, rfl, RoundTrip.rdCtrl 0 _ rfl, RoundTrip.rdLen 0 _ rfl, RoundTrip.rdBufl 0 _ rfl,
    RoundTrip.rdBufh 0 _ rfl, RoundTrip.rdRegidx 0 _ rfl, RoundTrip.rdRxdata 0 _ rfl, RoundTrip.rdClkdiv 0 _ rfl,
    RoundTrip.rdEvset 0 _ rfl⟩

/-! ## STATUS (R22, R176) -/

/-- The codes of CAUSE are distinct (R25). -/
theorem Cause.code_inj {c d : Cause} : c.code = d.code ↔ c = d := by
  cases c <;> cases d <;> decide

/-- The one-bit fields that STATUS stores (R22); its fourth, EVPEND, is `State.statusByte_evpend`. -/
theorem State.statusByte_bits (s : State) :
    s.statusByte.getLsbD 0 = s.done ∧ s.statusByte.getLsbD 1 = s.busy ∧ s.statusByte.getLsbD 4 = s.nackseen := by
  simp only [State.statusByte, BitVec.getLsbD_append]
  simp

/-- Bits 3:2 hold CAUSE: DONE and BUSY stand below it. -/
theorem State.statusByte_cause (s : State) : s.statusByte.extractLsb' 2 2 = s.cause.code := by
  rw [State.statusByte]
  iterate 2 rw [BitVec.extractLsb'_append_eq_of_le (by decide)]
  exact extract_low _ _

/-- Bits 7:6 are the zeroes above the five fields. -/
theorem State.statusByte_high (s : State) : s.statusByte.extractLsb' 6 2 = 0 := by
  rw [State.statusByte]
  iterate 5 rw [BitVec.extractLsb'_append_eq_of_le (by decide)]
  rfl

/-- The two bits of CAUSE are the code of a cause exactly when CAUSE is that cause (R25). -/
theorem State.statusByte_cause_iff (s : State) (c : Cause) :
    s.statusByte.extractLsb' 2 2 = c.code ↔ s.cause = c := by
  rw [State.statusByte_cause, Cause.code_inj]

/-- EVPEND is 1 exactly when an event is pending (R27). -/
theorem State.statusByte_evpend_iff (s : State) : s.statusByte.getLsbD 5 = true ↔ s.evbits ≠ 0 := by
  rw [State.statusByte_evpend, State.evpend, bne_iff_ne]

/-- Settles O24: the read returns the byte of STATUS, field by field. -/
theorem statusReadComposesTheFields : Obligations.StatusReadComposesTheFields := by
  refine ⟨RoundTrip.rdStatus 0 _ rfl, fun s _ => ⟨s.statusByte, rfl, ?_⟩⟩
  obtain ⟨hdone, hbusy, hnack⟩ := s.statusByte_bits
  exact ⟨hdone, hbusy, s.statusByte_cause_iff .none, s.statusByte_cause_iff .stop, s.statusByte_cause_iff .nack, hnack,
    s.statusByte_evpend_iff, s.statusByte_high⟩

end Sys2Proof.Machine
end

section
/-! The host harness (44_host_harness.md): the statement the host executes (R200, R214, R215), the statements that make
an access (R204 to R206), the statements on harness registers (R203, R207, R208, R213) and the branches (R209 to
R212). -/

namespace Sys2Proof.Machine

variable {s t : State}

/-! ## The statements that make an access (R204 to R206) -/

/-- An access changes no harness register. -/
theorem AccessNext.h_eq (h : AccessNext s t) : t.h = s.h := by cases h <;> rfl

/-- An access that writes no command and is not at a reserved offset completes, in every state (R81, R84). -/
theorem exec_decodeFields_completes {c : BitVec 5} (v : Byte) (s : State) (hctrl : c ≠ 0x10#5)
    (hoff : c.setWidth 4 ≤ 0xD#4) : ∃ t, exec (decodeFields c v) s = .next t := by
  unfold decodeFields
  split
  case h_17 => exact absurd rfl hctrl
  case h_15 | h_16 | h_31 => exact absurd hoff (by decide)
  case h_32 =>
    -- the last row, left for 0x1F alone: offset 0xF
    exfalso
    simp only [imp_false] at *
    bv_omega
  all_goals exact ⟨_, rfl⟩

/-- Such an access leaves the harness registers and `hpc` as they were. -/
theorem performAccess_completes {c : BitVec 5} (v : Byte) (s : State) (hctrl : c ≠ 0x10#5)
    (hoff : c.setWidth 4 ≤ 0xD#4) :
    ∃ t, performAccess (decodeWord (accessWord c v)) s = .next t ∧ t.h = s.h ∧ t.hpc = s.hpc := by
  have hi : (decodeWord (accessWord c v)).isAccess = true := decodeWord_isAccess _
  obtain ⟨t, e⟩ := exec_decodeFields_completes v s hctrl hoff
  rw [← decodeWord_accessWord, ← performAccess_eq_exec s hi] at e
  have hn : AccessNext s t := performAccess_cases hi e
  obtain ⟨-, -, hpc⟩ := hn.program
  exact ⟨t, e, hn.h_eq, hpc⟩

theorem exec_harnessWr (off : Offset) (v : Byte) (s : State) :
    exec (.harnessWr off v) s = afterAccess (exec (decodeWord (writeWord off v)) s) State.advance := by
  rw [← hostWrite_eq_exec]
  rfl

theorem exec_harnessRd (n : HReg) (off : Offset) (s : State) : exec (.harnessRd n off) s =
    afterAccess (exec (decodeWord (readWord off 0x00)) s) fun t => (t.setH n t.rdata).advance := by
  rw [← hostRead_eq_exec]
  rfl

theorem exec_harnessWr_completes {off : Offset} (v : Byte) (s : State) (h1 : 1 ≤ off) (hD : off ≤ 0xD) :
    ∃ t, exec (.harnessWr off v) s = .next t ∧ t.hpc = s.hpc + 1 ∧ t.h = s.h := by
  have hctrl : 1#1 ++ off ≠ 0x10#5 := by revert off; decide
  have hoff : (1#1 ++ off).setWidth 4 ≤ 0xD#4 := by revert off; decide
  obtain ⟨u, e, hh, hpc⟩ := performAccess_completes v s hctrl hoff
  exact ⟨u.advance, congrArg (afterAccess · State.advance) e, congrArg (· + 1) hpc, hh⟩

theorem exec_harnessRd_completes (n : HReg) {off : Offset} (s : State) (hD : off ≤ 0xD) :
    ∃ t, exec (.harnessRd n off) s = .next t ∧ t.hpc = s.hpc + 1 ∧ t.h = s.h.set n t.rdata := by
  have hctrl : 0#1 ++ off ≠ 0x10#5 := by revert off; decide
  have hoff : (0#1 ++ off).setWidth 4 ≤ 0xD#4 := by revert off; decide
  obtain ⟨u, e, hh, hpc⟩ := performAccess_completes 0x00 s hctrl hoff
  refine ⟨(u.setH n u.rdata).advance, ?_, congrArg (· + 1) hpc, congrArg (·.set n u.rdata) hh⟩
  exact congrArg (afterAccess · fun t => (t.setH n t.rdata).advance) e

/-- Settles O44: `wr` is the write access, then the advance; `wrr` is `wr` of the register's byte. -/
theorem writeStatementsMakeTheAccess : Obligations.WriteStatementsMakeTheAccess := by
  refine fun s off v n => ⟨fun t e => ?_, fun f e => ?_, rfl, exec_harnessWr_completes v s,
    exec_harnessWr_completes s.h[n] s⟩
  all_goals rw [exec_harnessWr, writeWord, e]
  all_goals rfl

/-- Settles O45: `rd` is the read access, then the returned byte to the register and the advance. -/
theorem readStatementMakesTheAccess : Obligations.ReadStatementMakesTheAccess := by
  refine fun s n off => ⟨fun t e => ?_, fun f e => ?_, exec_harnessRd_completes n s⟩
  all_goals rw [exec_harnessRd, readWord, e]
  all_goals rfl

/-! ## The statement at `hpc` (R200, R215) -/

theorem hostAction_of_stmt (sp : Bool) {st : Stmt} (hh : s.halted = false) (hst : s.prog[s.hpc]? = some st) :
    hostAction sp s = .run (st.toInstr sp) := by
  simp [hostAction, hh, hst]

theorem hostAction_of_length_le (sp : Bool) (hh : s.halted = false) (hl : s.prog.length ≤ s.hpc) :
    hostAction sp s = .raise .hpc := by
  simp [hostAction, hh, List.getElem?_eq_none hl]

/-- Settles O9: the host's action halted, at a statement, and past the last one; using the turn up changes none of what
it depends on. -/
theorem stepRunsHarnessStatement : Obligations.StepRunsHarnessStatement := fun s sp ts hf h =>
  ⟨fun hh => step_agent_settle hf h (hostAction_of_halted (s := { s with agenda := ts }) sp hh),
    fun _ hh hst => step_agent_run hf h (hostAction_of_stmt (s := { s with agenda := ts }) sp hh hst),
    fun hh hl => step_agent_raise hf h (hostAction_of_length_le (s := { s with agenda := ts }) sp hh hl)⟩

/-! ## The statements on harness registers (R203, R207, R208, R213, R214) -/

/-- Addition of bytes is the sum modulo 256. -/
theorem byte_add_eq (a b : Byte) : a + b = BitVec.ofNat 8 ((a.toNat + b.toNat) % 256) := by
  apply BitVec.eq_of_toNat_eq
  simp

/-- `addi` wraps around at 8 bits (R207). -/
theorem exec_harnessAddi (n : HReg) (imm : Byte) (s : State) : exec (.harnessAddi n imm) s = .next
    { s with h := s.h.set n (BitVec.ofNat 8 ((s.h[n].toNat + imm.toNat) % 256)), hpc := s.hpc + 1 } := by
  rw [← byte_add_eq]
  rfl

/-- Settles O42: `addi` by `exec_harnessAddi`, every other statement by its row's meaning. -/
theorem registerStatementsCompute : Obligations.RegisterStatementsCompute := fun s n imm =>
  ⟨rfl, exec_harnessAddi n imm s, rfl, rfl, rfl⟩

/-! ## The branches (R209 to R212) -/

/-- A branch sets `hpc` alone, to the target where its condition holds and to the next statement elsewhere. -/
theorem State.branch_eq {taken : Bool} {p : Prop} [Decidable p] (s : State) (l : Nat) (h : taken = true ↔ p) :
    s.branch taken l = { s with hpc := if p then l else s.hpc + 1 } := by
  simp only [State.branch, h]
  split <;> rfl

/-- Settles O43: the condition of each branch, and the jump. -/
theorem branchesMoveHpc : Obligations.BranchesMoveHpc := fun s _ _ l =>
  ⟨congrArg Host.Outcome.next (s.branch_eq l beq_iff_eq), congrArg Host.Outcome.next (s.branch_eq l bne_iff_ne),
    congrArg Host.Outcome.next (s.branch_eq l beq_iff_eq), rfl⟩

end Sys2Proof.Machine
end

section
/-! The encoding (30_encoding.md sections 1, 2 and 4): decoding gives back what was encoded, encoding what was decoded, and
every word matches the opcode table's row of its instruction (R80 to R84, R90). -/

namespace Sys2Proof

open Laws

/-! ## Decoding after encoding -/

/-- The word of an instruction decodes to it, for each row of the opcode table, in the table's order. -/
theorem decodeWord_of_encodeWord (i : Instr) : RoundTrip.Statement i := by
  open RoundTrip in
  cases i
  exacts [i2cNop, i2cInit, i2cWrite, i2cReadreg, ctrlReserved0407 _, ctrlReserved080F _, ctrlReserved101F _,
    ctrlReserved203F _, ctrlReserved407F _, ctrlReserved80FF _, wrStatus _, wrSaddr _, wrLen _, wrBufl _, wrBufh _,
    wrRegidx _, wrRxdata _, wrClkdiv _, wrCfg _, wrIfg _, wrEvbits _, evPost _, wrEvtake _, rdCtrl _, rdStatus _,
    rdSaddr _, rdLen _, rdBufl _, rdBufh _, rdRegidx _, rdRxdata _, rdClkdiv _, rdCfg _, rdIfg _, rdEvbits _,
    rdEvset _, evTake _, offReserved _ _ _, busAddrAck _, busDataAck _, busRxByte _, engSvcRx, engSvcTx, engSvcNack,
    engSvcStop, prodEvIn _, hostWaitdone, hostSleep _, harnessLi _ _, harnessWr _ _, harnessWrr _ _, harnessRd _ _,
    harnessAddi _ _, harnessAndi _ _, harnessBeqz _ _, harnessBnez _ _, harnessBeqi _ _ _, harnessJmp _,
    harnessLog _, harnessHalt]

/-- Settles O3: the bytes of an instruction are those of its word, and the word decodes to the instruction. -/
theorem encodedBytesDecodeBack : Obligations.EncodedBytesDecodeBack := by
  intro i bs rest h
  obtain ⟨w, hw, rfl⟩ := Option.map_eq_some_iff.1 h
  rw [decode_wordBytes, decodeWord_of_encodeWord i w hw]

/-! ## Encoding after decoding -/

/-- A byte whose high bits are `p` is `p` and its low bits. -/
theorem append_extractLsb' {m n : Nat} {p : BitVec m} {v : BitVec (m + n)} (h : v.extractLsb' n m = p) :
    p ++ v.extractLsb' 0 n = v := by
  subst h
  rw [BitVec.extractLsb'_append_extractLsb'_eq_extractLsb' (by omega)]
  simp

/-- Past the bytes whose high part from bit `k` on is 1 come those of `2 ^ (k + 1)` and more. -/
theorem two_pow_succ_le {m k : Nat} {v : Byte} (hm : m + k = 8) (hle : 2 ^ k ≤ v.toNat) (hne : v.extractLsb' k m ≠ 1) :
    2 ^ (k + 1) ≤ v.toNat := by
  have hlt : v.toNat / 2 ^ k < 2 ^ m := Nat.div_lt_of_lt_mul (by rw [← Nat.pow_add, Nat.add_comm, hm]; exact v.isLt)
  have hv : (v.extractLsb' k m).toNat = v.toNat / 2 ^ k := by
    rw [BitVec.extractLsb'_toNat, Nat.shiftRight_eq_div_pow, Nat.mod_eq_of_lt hlt]
  have h1 : 1 ≤ v.toNat / 2 ^ k := (Nat.one_le_div_iff (Nat.two_pow_pos k)).2 hle
  have h2 : v.toNat / 2 ^ k ≠ 1 := fun e => hne <| BitVec.eq_of_toNat_eq <|
    (hv.trans e).trans (Nat.mod_eq_of_lt (e ▸ hlt)).symm
  rw [Nat.pow_succ, Nat.mul_comm, ← Nat.le_div_iff_mul_le (Nat.two_pow_pos k)]
  omega

theorem encodeWord_ite {p : Prop} [Decidable p] {i j : Instr} {w : Option AccessWord} (hi : p → encodeWord i = w)
    (hj : ¬p → encodeWord j = w) : encodeWord (if p then i else j) = w := by
  split
  · exact hi ‹_›
  · exact hj ‹_›

/-- A write to CTRL encodes back: each reserved row keeps the bits below its high part (R82, R83). -/
theorem encodeWord_decodeCommand (v : Byte) : encodeWord (decodeCommand v) = some (writeWord 0x0 v) := by
  have row {i : Instr} {b : Byte} (he : encodeWord i = some (writeWord 0x0 b)) (hb : b = v) :
      encodeWord i = some (writeWord 0x0 v) := hb ▸ he
  unfold decodeCommand
  refine encodeWord_ite (fun h => row rfl h.symm) fun h0 => ?_
  refine encodeWord_ite (fun h => row rfl h.symm) fun h1 => ?_
  refine encodeWord_ite (fun h => row rfl h.symm) fun h2 => ?_
  refine encodeWord_ite (fun h => row rfl h.symm) fun h3 => ?_
  have l4 : 2 ^ 2 ≤ v.toNat := by bv_omega
  refine encodeWord_ite (fun h => row rfl (append_extractLsb' (n := 2) h)) fun h4 => ?_
  have l8 := two_pow_succ_le rfl l4 h4
  refine encodeWord_ite (fun h => row rfl (append_extractLsb' (n := 3) h)) fun h8 => ?_
  have l10 := two_pow_succ_le rfl l8 h8
  refine encodeWord_ite (fun h => row rfl (append_extractLsb' (n := 4) h)) fun h10 => ?_
  have l20 := two_pow_succ_le rfl l10 h10
  refine encodeWord_ite (fun h => row rfl (append_extractLsb' (n := 5) h)) fun h20 => ?_
  have l40 := two_pow_succ_le rfl l20 h20
  refine encodeWord_ite (fun h => row rfl (append_extractLsb' (n := 6) h)) fun h40 => ?_
  have l80 := two_pow_succ_le rfl l40 h40
  have hbit : v.extractLsb' 7 1 = 1#1 := by
    apply BitVec.eq_of_toNat_eq
    rw [BitVec.extractLsb'_toNat, Nat.shiftRight_eq_div_pow, BitVec.toNat_ofNat]
    omega
  exact row rfl (append_extractLsb' (n := 7) hbit)

theorem encodeWord_decodeFields (c : BitVec 5) (v : Byte) : encodeWord (decodeFields c v) = some (accessWord c v) := by
  unfold decodeFields
  split
  case h_17 => exact encodeWord_decodeCommand v
  case h_32 =>
    -- the last row, left for 0x1F alone
    obtain rfl : c = 0x1F#5 := by simp only [imp_false] at *; bv_omega
    rfl
  all_goals rfl

/-- Settles O4: the word that the instruction's row gives for the two fields of `w` is `w`. -/
theorem everyWordEncodesBack : Obligations.EveryWordEncodesBack := fun w => by
  rw [decodeWord, encodeWord_decodeFields, accessWord_fields]

/-! ## The opcode table -/

/-- The word has the row's pattern under the row's mask. -/
def Instr.RowMatches (i : Instr) (w : AccessWord) : Prop := ∃ r, accessRow i = some r ∧ w &&& r.mask = r.pattern

/-- A mask of high bits keeps the high part. -/
theorem append_and_high {m n : Nat} (a : BitVec m) (b : BitVec n) :
    (a ++ b) &&& (BitVec.allOnes m ++ 0#n) = a ++ 0#n := by
  rw [BitVec.and_append, BitVec.and_allOnes, BitVec.and_zero]

/-- A mask of bits of `RW : OFF` alone (R81). -/
theorem accessWord_and_rwOff (c m : BitVec 5) (v : Byte) :
    accessWord c v &&& accessWord m 0x00 = accessWord (c &&& m) 0x00 :=
  BitVec.and_append.trans (congrArg ((c &&& m) ++ ·) BitVec.and_zero)

/-- A mask of `RW : OFF` and of bits of DATA, on a write to CTRL (R83). -/
theorem writeWord_and_data {v m p : Byte} (h : v &&& m = p) :
    writeWord 0x0 v &&& accessWord 0x1F m = writeWord 0x0 p := h ▸ BitVec.and_append

theorem rowMatches_of_encodeWord {i : Instr} {w : AccessWord} (h : encodeWord i = some w) : i.RowMatches w := by
  cases i
  case i2cNop | i2cInit | i2cWrite | i2cReadreg =>
    cases h
    exact ⟨_, rfl, rfl⟩
  case ctrlReserved0407 d => cases h; exact ⟨_, rfl, writeWord_and_data (append_and_high 0b000001#6 d)⟩
  case ctrlReserved080F d => cases h; exact ⟨_, rfl, writeWord_and_data (append_and_high 0b00001#5 d)⟩
  case ctrlReserved101F d => cases h; exact ⟨_, rfl, writeWord_and_data (append_and_high 0b0001#4 d)⟩
  case ctrlReserved203F d => cases h; exact ⟨_, rfl, writeWord_and_data (append_and_high 0b001#3 d)⟩
  case ctrlReserved407F d => cases h; exact ⟨_, rfl, writeWord_and_data (append_and_high 0b01#2 d)⟩
  case ctrlReserved80FF d => cases h; exact ⟨_, rfl, writeWord_and_data (append_and_high 0b1#1 d)⟩
  case offReserved write odd x =>
    cases h
    cases write <;> cases odd <;> exact ⟨_, rfl, accessWord_and_rwOff _ 0x0E x⟩
  all_goals cases h
  all_goals exact ⟨_, rfl, accessWord_and_rwOff _ 0x1F _⟩

/-- Settles O5: every word is that of the instruction it decodes to, and the word of an instruction matches its row. -/
theorem decodedWordMatchesTableRow : Obligations.DecodedWordMatchesTableRow := fun w =>
  rowMatches_of_encodeWord (everyWordEncodesBack w)

/-- Settles O1: each printed word is the word of the instruction it stands for. -/
theorem sampleWordsDecode : Obligations.SampleWordsDecode :=
  open RoundTrip in
  ⟨wrSaddr 0x40 _ rfl, rdStatus 0x00 _ rfl, i2cWrite _ rfl, i2cNop _ rfl, i2cInit _ rfl, i2cReadreg _ rfl,
    evPost 0x08 _ rfl, evTake 0x00 _ rfl, rdRxdata 0x00 _ rfl, ctrlReserved80FF 0x7F _ rfl,
    offReserved false false 0x00 _ rfl, offReserved true true 0x12 _ rfl⟩

end Sys2Proof
end

section
/-! Facts of every step and every instruction (60_exceptions.md section 1, 10_state.md, 20_memory.md): the access turns,
power-on reset, the invariant, what no instruction writes, and what only one of them does. -/

namespace Sys2Proof.Machine

variable {s t : State}

/-! ## The access turns (R63, R68) and power-on reset (R260) -/

theorem accessAction_eight (w : AccessWord) : accessAction 8 w = .run (decodeWord w) := if_pos rfl

/-- Settles O6: an access of 8 bits is the instruction of its word. -/
theorem stepRunsAccessWord : Obligations.StepRunsAccessWord := fun _ w _ hf h =>
  step_agent_run hf h (accessAction_eight w)

theorem reachedFrom_eq_true {p : Params} {addr width : Nat} :
    p.reachedFrom addr width = true ↔ addr < p.base ∧ p.base < addr + (width + 7) / 8 := by
  simp [Params.reachedFrom]

/-- Away from the block an access is not the block's (R68). -/
theorem mappedAction_away {addr width : Nat} (write : Bool) (data : Byte) (ho : s.par.offsetOf addr = none)
    (hr : ¬s.par.reachedFrom addr width = true) : mappedAction addr width write data s = .settle s := by
  rw [mappedAction, ho]
  exact if_neg hr

/-- A wide access that reaches into the block from below (log 13). -/
theorem mappedAction_reaching {addr width : Nat} (write : Bool) (data : Byte) (ho : s.par.offsetOf addr = none)
    (hr : s.par.reachedFrom addr width = true) : mappedAction addr width write data s = .raise .width := by
  rw [mappedAction, ho]
  exact if_pos hr

/-- Settles O7: the offset of the host address, and where there is none whether the access reaches `BASE`. -/
theorem stepRunsMappedAccess : Obligations.StepRunsMappedAccess := by
  refine fun s write data ts hf => ⟨fun off h => ?_, fun addr width ha h => ?_, fun addr width ha hr h => ?_⟩
  · exact step_agent_run hf h
      ((mappedAction_base_add { s with agenda := ts } off 8 write data).trans (accessAction_eight _))
  · have ho : s.par.offsetOf addr = none := offsetOf_outside (by omega)
    have hr : ¬s.par.reachedFrom addr width = true := by rw [reachedFrom_eq_true]; omega
    exact step_agent_settle hf h (mappedAction_away (s := { s with agenda := ts }) write data ho hr)
  · have ho : s.par.offsetOf addr = none := offsetOf_outside (.inl ha)
    have hr : s.par.reachedFrom addr width = true := reachedFrom_eq_true.2 ⟨ha, hr⟩
    exact step_agent_raise hf h (mappedAction_reaching (s := { s with agenda := ts }) write data ho hr)

/-- Power-on reset is taken whatever is recorded in FAULT (R260). -/
theorem turnAction_powerOn (s : State) : turnAction .powerOn s = .settle s.powerOn := ite_self _

/-- Settles O13: the turn settles at power-on reset, which is the reset state but for what is not the block's. -/
theorem powerOnResetsTheBlock : Obligations.PowerOnResetsTheBlock := fun _ _ h =>
  step_settle (nextTurn_cons h) (turnAction_powerOn _)

/-! ## The invariant (R50) -/

/-- Settles O52: R49's values, clause by clause. -/
theorem resetSatisfiesTheInvariant : Obligations.ResetSatisfiesTheInvariant := inv_reset

/-- Settles O53: each agent's instruction keeps the invariant, and so do an idle turn, a store and power-on reset. -/
theorem stepKeepsTheInvariant : Obligations.StepKeepsTheInvariant := fun _ _ h e => step_keeps_inv h e

/-! ## No refusal (R220, R221) -/

/-- Settles O12: every instruction answers a state or raises a fault. -/
theorem noInstructionIsRefused : Obligations.NoInstructionIsRefused := fun i s r e => by
  obtain ⟨t, h⟩ | ⟨c, h⟩ := exec_answersOrRaises i s
  · cases h.symm.trans e
  · cases h.symm.trans e

/-! ## Host memory, the parameters, the program and the schedule (R6, R67) -/

/-- What the machine runs on, and no instruction writes: host memory, the parameters, the program, the schedule. -/
def State.surroundings (s : State) : List Host.Cell × Params × List Stmt × List Turn × Nat :=
  (s.mem, s.par, s.prog, s.agenda, s.turns)

theorem AccessNext.surroundings_eq (h : AccessNext s t) : t.surroundings = s.surroundings := by cases h <;> rfl

theorem BusNext.surroundings_eq (h : BusNext s t) : t.surroundings = s.surroundings := by cases h <;> rfl

theorem State.complete_surroundings (s : State) (c : Cause) : (s.complete c).surroundings = s.surroundings := by
  obtain ⟨-, -, e⟩ | e := s.complete_cases c <;> rw [e] <;> rfl

theorem EngineNext.surroundings_eq (h : EngineNext s t) : t.surroundings = s.surroundings := by
  cases h with
  | same | rx | tx => rfl
  | nack | stop => exact State.complete_surroundings _ _

theorem exec_surroundings {i : Instr} (e : exec i s = .next t) : t.surroundings = s.surroundings := by
  cases ha : i.agent with
  | host =>
    obtain ⟨u, hu, hs, pc, lg, hlt, rfl⟩ := exec_host_cases ha e
    exact hu.surroundings_eq
  | engine => exact (exec_engine_cases ha e).surroundings_eq
  | bus => exact (exec_bus_cases ha e).surroundings_eq
  | producers =>
    obtain ⟨m, -, rfl⟩ := exec_producers_cases ha e
    rfl

/-- Settles O46: what the machine runs on is the same after each agent's instruction. -/
theorem hostMemoryIsNeverWritten : Obligations.HostMemoryIsNeverWritten := by
  intro i s t e
  have h : t.surroundings = s.surroundings := exec_surroundings e
  simp only [State.surroundings, Prod.mk.injEq] at h
  obtain ⟨hmem, hpar, hprog, hagenda, hturns⟩ := h
  exact ⟨fun a => by rw [State.byteAt, hmem, State.byteAt], hpar, hprog, hagenda, hturns⟩

/-! ## RXDATA (R32) -/

theorem AccessNext.rxdata_eq (h : AccessNext s t) : t.rxdata = s.rxdata := by cases h <;> rfl

theorem BusNext.rxdata_eq (h : BusNext s t) : t.rxdata = s.rxdata := by cases h <;> rfl

theorem State.complete_rxdata (s : State) (c : Cause) : (s.complete c).rxdata = s.rxdata := by
  obtain ⟨-, -, e⟩ | e := s.complete_cases c <;> rw [e] <;> rfl

/-- A service of another flag than the selected one is not enabled (R125, log 3). -/
theorem exec_service_of_ne {f g : Flag} (hf : s.selectedFlag = some f) (hne : f ≠ g) : exec g.service s = .next s := by
  have h : s.selectedFlag ≠ some g := by simp [hf, hne]
  cases g <;> exact if_neg h

theorem exists_service_of_agent {i : Instr} (ha : i.agent = .engine) : ∃ f : Flag, i = f.service := by
  cases i
  case engSvcRx => exact ⟨.rx, rfl⟩
  case engSvcTx => exact ⟨.tx, rfl⟩
  case engSvcNack => exact ⟨.nack, rfl⟩
  case engSvcStop => exact ⟨.stop, rfl⟩
  all_goals cases ha

/-- With RXIF selected the other services do nothing, and they leave RXDATA in any case. -/
theorem exec_engine_rxdata {i : Instr} (ha : i.agent = .engine) (hi : i ≠ .engSvcRx) (e : exec i s = .next t) :
    t.rxdata = s.rxdata := by
  cases exec_engine_cases ha e with
  | same | tx => rfl
  | nack | stop => exact State.complete_rxdata _ _
  | rx hf =>
    obtain ⟨g, rfl⟩ := exists_service_of_agent ha
    have hs : exec g.service s = .next s := exec_service_of_ne hf (by rintro rfl; exact hi rfl)
    exact congrArg State.rxdata (Host.Outcome.next.inj (e.symm.trans hs))

/-- Settles O47: no other agent's instruction writes RXDATA, and no other service. -/
theorem onlyReceiveServiceWritesRxdata : Obligations.OnlyReceiveServiceWritesRxdata := by
  intro i s t e hi
  cases ha : i.agent with
  | host =>
    obtain ⟨u, hu, hs, pc, lg, hlt, rfl⟩ := exec_host_cases ha e
    exact hu.rxdata_eq
  | engine => exact exec_engine_rxdata ha hi e
  | bus => exact (exec_bus_cases ha e).rxdata_eq
  | producers =>
    obtain ⟨m, -, rfl⟩ := exec_producers_cases ha e
    rfl

/-! ## TRACE (R44) -/

/-- A host access adds to TRACE only the START of the command that it issues. -/
theorem AccessNext.trace_cases (h : AccessNext s t) :
    t.trace = s.trace ∨ s.busy = false ∧ t.trace = s.trace ++ [Sym.s] := by
  cases h with
  | same | read | saddr | len | bufl | bufh | regidx | post | take | init => exact .inl rfl
  | write hb | readreg hb => exact .inr ⟨hb, rfl⟩

theorem BusNext.trace_grows (h : BusNext s t) : ∃ syms, t.trace = s.trace ++ syms := by
  cases h with
  | same => exact ⟨[], (List.append_nil _).symm⟩
  | addrNack | addrWrite | addrRead | dataNack | dataMore | dataLast | byte => exact ⟨_, rfl⟩

/-- A completion adds to TRACE at most the START of stage R (R130). -/
theorem State.complete_trace_grows (s : State) (c : Cause) : ∃ syms, (s.complete c).trace = s.trace ++ syms := by
  obtain ⟨-, -, e⟩ | e := s.complete_cases c <;> rw [e]
  · exact ⟨[Sym.s], rfl⟩
  · exact ⟨[], (List.append_nil _).symm⟩

theorem EngineNext.trace_grows (h : EngineNext s t) : ∃ syms, t.trace = s.trace ++ syms := by
  cases h with
  | same | rx | tx => exact ⟨[], (List.append_nil _).symm⟩
  | nack | stop => exact State.complete_trace_grows _ _

theorem exec_host_trace {i : Instr} (ha : i.agent = .host) (e : exec i s = .next t) :
    t.trace = s.trace ∨ s.busy = false ∧ t.trace = s.trace ++ [Sym.s] := by
  obtain ⟨u, hu, hs, pc, lg, hlt, rfl⟩ := exec_host_cases ha e
  exact hu.trace_cases

theorem exec_trace_grows {i : Instr} (e : exec i s = .next t) : ∃ syms, t.trace = s.trace ++ syms := by
  cases ha : i.agent with
  | host =>
    obtain h | ⟨-, h⟩ := exec_host_trace ha e
    · exact ⟨[], by rw [h, List.append_nil]⟩
    · exact ⟨_, h⟩
  | engine => exact (exec_engine_cases ha e).trace_grows
  | bus => exact (exec_bus_cases ha e).trace_grows
  | producers =>
    obtain ⟨m, -, rfl⟩ := exec_producers_cases ha e
    exact ⟨[], (List.append_nil _).symm⟩

/-- Settles O49: each agent's instruction appends to TRACE, and a host instruction makes at most one access. -/
theorem traceOnlyGrows : Obligations.TraceOnlyGrows := fun _ _ _ e =>
  ⟨exec_trace_grows e, fun ha => exec_host_trace ha e⟩

end Sys2Proof.Machine
end

section
/-! INIT alone writes the configuration (10_state.md R33, R34), and while a transaction is outstanding nothing but the
bus and the engine touches it, so that a bus that never answers hangs it (41_i2c_bus_engine.md R133, R269). -/

namespace Sys2Proof

/-- An instruction is decoded from its own access word only (R90). -/
theorem eq_of_decodeWord_eq {w w' : AccessWord} {i : Instr} (h : decodeWord w = i) (hi : encodeWord i = some w') :
    w = w' := by
  subst h
  exact Option.some.inj ((everyWordEncodesBack w).symm.trans hi)

/-- The access word gives back its two fields. -/
theorem accessWord_inj {c c' : BitVec 5} {v v' : Byte} (h : accessWord c v = accessWord c' v') : c = c' ∧ v = v' := by
  have hc := congrArg AccessWord.rwOff h
  have hv := congrArg AccessWord.data h
  simp only [rwOff_accessWord, data_accessWord] at hc hv
  exact ⟨hc, hv⟩

/-- The host write that is INIT (R82). -/
theorem writeWord_eq_init {off : Offset} {v : Byte} (h : decodeWord (writeWord off v) = .i2cInit) :
    off = 0x0 ∧ v = 0x01 := by
  obtain ⟨hc, hv⟩ := accessWord_inj (eq_of_decodeWord_eq h rfl)
  exact ⟨(BitVec.append_right_inj 1#1).1 hc, hv⟩

/-- No host read is INIT. -/
theorem decodeWord_readWord_ne_init (off : Offset) (x : Byte) : decodeWord (readWord off x) ≠ .i2cInit := by
  intro h
  obtain ⟨hc, -⟩ := accessWord_inj (eq_of_decodeWord_eq h rfl)
  have hne : ∀ off : Offset, 0#1 ++ off ≠ 1#1 ++ 0x0#4 := by decide
  exact hne off hc

end Sys2Proof

namespace Sys2Proof.Machine

variable {s t : State}

/-! ## CFG and CLKDIV (R33, R34) -/

/-- The configuration: CFG and CLKDIV. -/
def State.config (s : State) : Cfg × Byte := (s.cfg, s.clkdiv)

/-- The configuration after INIT (R101). -/
def State.initConfig (s : State) : Cfg × Byte := (.afterInit, s.par.pClkdiv)

theorem performAccess_config {i : Instr} (e : performAccess i s = .next t) :
    t.config = s.config ∨ i = .i2cInit ∧ t.config = s.initConfig := by
  cases i
  case i2cInit =>
    obtain ⟨-, h⟩ | ⟨-, h⟩ := execI2cInit_cases s
    · exact absurd (h.symm.trans e) (raise_ne_next _ _ _)
    · cases h.symm.trans e
      exact .inr ⟨rfl, rfl⟩
  case i2cWrite =>
    obtain ⟨c, h⟩ | ⟨-, -, -, -, h⟩ := execI2cWrite_cases s
    · exact absurd (h.symm.trans e) (raise_ne_next _ _ _)
    · cases h.symm.trans e
      exact .inl rfl
  case i2cReadreg =>
    obtain ⟨c, h⟩ | ⟨-, -, h⟩ := execI2cReadreg_cases s
    · exact absurd (h.symm.trans e) (raise_ne_next _ _ _)
    · cases h.symm.trans e
      exact .inl rfl
  all_goals cases e
  all_goals exact .inl rfl

/-- A write access configures only as INIT (R91). -/
theorem hostWrite_config {off : Offset} {v : Byte} (e : hostWrite off v s = .next t) :
    t.config = s.config ∨ (off = 0x0 ∧ v = 0x01) ∧ t.config = s.initConfig :=
  (performAccess_config e).imp_right fun ⟨hi, hc⟩ => ⟨writeWord_eq_init hi, hc⟩

theorem hostRead_config {off : Offset} (e : hostRead off s = .next t) : t.config = s.config :=
  (performAccess_config e).resolve_right fun ⟨hi, _⟩ => decodeWord_readWord_ne_init off 0x00 hi

theorem BusNext.config_eq (h : BusNext s t) : t.config = s.config := by cases h <;> rfl

theorem State.complete_config (s : State) (c : Cause) : (s.complete c).config = s.config := by
  obtain ⟨-, -, e⟩ | e := s.complete_cases c <;> rw [e] <;> rfl

theorem EngineNext.config_eq (h : EngineNext s t) : t.config = s.config := by
  cases h with
  | same | rx | tx => rfl
  | nack | stop => exact State.complete_config _ _

/-- INIT, by itself or as the access of a statement. -/
def MakesInit (s : State) (i : Instr) : Prop :=
  i = .i2cInit ∨ i = .harnessWr 0x0 0x01 ∨ ∃ n, i = .harnessWrr 0x0 n ∧ s.readH n = 0x01

theorem exec_stmt_config {st : Stmt} {sp : Bool} (e : exec (st.toInstr sp) s = .next t) :
    t.config = s.config ∨ MakesInit s (st.toInstr sp) ∧ t.config = s.initConfig := by
  cases st with
  | wr off v =>
    obtain ⟨u, hu, rfl⟩ := afterAccess_eq_next e
    refine (hostWrite_config hu).imp_right ?_
    rintro ⟨⟨rfl, rfl⟩, hc⟩
    exact ⟨.inr (.inl rfl), hc⟩
  | wrr off n =>
    obtain ⟨u, hu, rfl⟩ := afterAccess_eq_next e
    refine (hostWrite_config hu).imp_right ?_
    rintro ⟨⟨rfl, hv⟩, hc⟩
    exact ⟨.inr (.inr ⟨n, rfl, hv⟩), hc⟩
  | rd n off =>
    obtain ⟨u, hu, rfl⟩ := afterAccess_eq_next e
    have hc : u.config = s.config := hostRead_config hu
    exact .inl hc
  | waitdone => cases (hostWaitdone_eq s).symm.trans e; left; split <;> rfl
  | sleep => cases (hostSleep_eq sp s).symm.trans e; left; split <;> rfl
  | beqz | bnez | beqi => cases e; left; unfold State.branch; split <;> rfl
  | li | addi | andi | jmp | log | halt => cases e; exact .inl rfl

/-- A host instruction is an access or a statement (R89). -/
theorem access_or_stmt {i : Instr} (ha : i.agent = .host) :
    i.isAccess = true ∨ ∃ (st : Stmt) (sp : Bool), i = st.toInstr sp := by
  cases i
  case hostWaitdone => exact .inr ⟨.waitdone, false, rfl⟩
  case hostSleep sp => exact .inr ⟨.sleep, sp, rfl⟩
  case harnessLi n v => exact .inr ⟨.li n v, false, rfl⟩
  case harnessWr off v => exact .inr ⟨.wr off v, false, rfl⟩
  case harnessWrr off n => exact .inr ⟨.wrr off n, false, rfl⟩
  case harnessRd n off => exact .inr ⟨.rd n off, false, rfl⟩
  case harnessAddi n v => exact .inr ⟨.addi n v, false, rfl⟩
  case harnessAndi n v => exact .inr ⟨.andi n v, false, rfl⟩
  case harnessBeqz n l => exact .inr ⟨.beqz n l, false, rfl⟩
  case harnessBnez n l => exact .inr ⟨.bnez n l, false, rfl⟩
  case harnessBeqi n v l => exact .inr ⟨.beqi n v l, false, rfl⟩
  case harnessJmp l => exact .inr ⟨.jmp l, false, rfl⟩
  case harnessLog n => exact .inr ⟨.log n, false, rfl⟩
  case harnessHalt => exact .inr ⟨.halt, false, rfl⟩
  all_goals first
    | exact .inl rfl
    | cases ha

theorem exec_config {i : Instr} (e : exec i s = .next t) :
    t.config = s.config ∨ MakesInit s i ∧ t.config = s.initConfig := by
  cases ha : i.agent with
  | host =>
    obtain hi | ⟨st, sp, rfl⟩ := access_or_stmt ha
    · rw [← performAccess_eq_exec s hi] at e
      exact (performAccess_config e).imp_right fun ⟨hi, hc⟩ => ⟨.inl hi, hc⟩
    · exact exec_stmt_config e
  | engine => exact .inl (exec_engine_cases ha e).config_eq
  | bus => exact .inl (exec_bus_cases ha e).config_eq
  | producers =>
    obtain ⟨m, -, rfl⟩ := exec_producers_cases ha e
    exact .inl rfl

/-- Settles O48: the configuration stays, or the instruction made the access INIT, whose CFG reads 0xF7. -/
theorem onlyInitWritesConfiguration : Obligations.OnlyInitWritesConfiguration := by
  intro i s t e
  obtain h | ⟨hi, h⟩ := exec_config e
  · exact .inl (Prod.mk.inj h)
  · obtain ⟨hcfg, hdiv⟩ := Prod.mk.inj h
    exact .inr ⟨hcfg ▸ rfl, hdiv, hi⟩

/-! ## An outstanding transaction (R28, R40, R264, R265, R272) -/

/-- What a transaction consists of until it completes: the record, the phase and the flags, the shift registers and
RXDATA, the enables, TRACE, and STATUS but for EVPEND. -/
def State.outstanding (s : State) :
    Transaction × Phase × Ifg × Cfg × Byte × Byte × Byte × List Sym × Bool × Bool × Cause × Bool :=
  (s.txn, s.ph, s.ifg, s.cfg, s.txshift, s.rxshift, s.rxdata, s.trace, s.busy, s.done, s.cause, s.nackseen)

/-- While BUSY a host access that completes is no command but NOP (R101 to R103). -/
theorem AccessNext.outstanding_eq (h : AccessNext s t) (hb : s.busy = true) : t.outstanding = s.outstanding := by
  cases h with
  | same | read | saddr | len | bufl | bufh | regidx | post | take => rfl
  | init hidle | write hidle | readreg hidle => simp [hb] at hidle

theorem exec_outstanding {i : Instr} (ha : i.agent = .host ∨ i.agent = .producers) (hb : s.busy = true)
    (e : exec i s = .next t) : t.outstanding = s.outstanding := by
  obtain ha | ha := ha
  · obtain ⟨u, hu, hs, pc, lg, hlt, rfl⟩ := exec_host_cases ha e
    exact hu.outstanding_eq hb
  · obtain ⟨m, -, rfl⟩ := exec_producers_cases ha e
    rfl

/-- Settles O50: the host's access is no command, and a producer posts. -/
theorem hostNeverDisturbsATransaction : Obligations.HostNeverDisturbsATransaction := by
  intro i s t e hb ha
  have h : t.outstanding = s.outstanding := exec_outstanding ha hb e
  simp only [State.outstanding, Prod.mk.injEq] at h
  obtain ⟨htxn, hph, hifg, hcfg, htx, hrx, hrd, htr, hbusy, hdone, hcause, hnack⟩ := h
  exact ⟨htxn, hph, hifg, hcfg, htx, hrx, hrd, htr, hbusy.trans hb, hdone, hcause, hnack⟩

/-! ## The hung bus (R133, R269) -/

/-- In a phase that waits for the bus no flag is pending (R50 d, e). -/
theorem Inv.ifg_of_waiting (h : Inv s) (hw : s.ph.waitsForBus = true) : s.ifg = .none := by
  apply h.ifg_eq_none <;> intro e <;> rw [e] at hw <;> cases hw

theorem Inv.busy_of_waiting (h : Inv s) (hw : s.ph.waitsForBus = true) : s.busy = true :=
  h.busy_of_ph fun e => by rw [e] at hw; cases hw

theorem agent_of_isAccess {i : Instr} (h : i.isAccess = true) : i.agent = .host := by
  cases i
  all_goals first
    | rfl
    | cases h

theorem agent_toInstr (sp : Bool) (st : Stmt) : (st.toInstr sp).agent = .host := by cases st <;> rfl

theorem accessAction_agent {width : Nat} {w : AccessWord} {i : Instr} (h : accessAction width w = .run i) :
    i.agent = .host := by
  unfold accessAction at h
  split at h
  · cases h; exact agent_of_isAccess (decodeWord_isAccess w)
  · cases h

/-- Without a turn of the bus, and with no flag for the engine, only the host and the producers have a step. -/
theorem agentAction_agent {x : Turn} (hx : x.canUnhang = false) (hi : s.ifg = .none) {i : Instr}
    (h : agentAction x s = .run i) : i.agent = .host ∨ i.agent = .producers := by
  cases x with
  | bus | powerOn => cases hx
  | access width w => exact .inl (accessAction_agent h)
  | mapped addr width write data =>
    simp only [agentAction, mappedAction] at h
    split at h
    · exact .inl (accessAction_agent h)
    · split at h <;> cases h
  | host sp =>
    simp only [agentAction, hostAction] at h
    split at h
    · cases h
    · split at h
      · cases h; exact .inl (agent_toInstr sp _)
      · cases h
  | engine =>
    rw [agentAction, engineAction_of_none (State.selectedFlag_of_none hi)] at h
    cases h
  | producer m =>
    simp only [agentAction, producerAction] at h
    split at h
    · cases h
    · cases h; exact .inr rfl
  | store => cases h

/-- The inversion lemma of a step whose turn is the head of the schedule. -/
theorem step_agent_cases {x : Turn} {ts : List Turn} (hf : s.faults = []) (ha : s.agenda = x :: ts)
    (e : step s = .next t) :
    (∃ i, agentAction x { s with agenda := ts } = .run i ∧ exec i { s with agenda := ts } = .next t) ∨
    agentAction x { s with agenda := ts } = .settle t := by
  have h := step_cases e
  rwa [nextTurn_cons ha, turnAction_of_noFault (s := { s with agenda := ts }) hf] at h

/-- One turn of a hung run leaves the transaction. -/
theorem step_outstanding {x : Turn} {ts : List Turn} (h : Inv s) (hw : s.ph.waitsForBus = true)
    (ha : s.agenda = x :: ts) (hx : x.canUnhang = false) (e : step s = .next t) : t.outstanding = s.outstanding := by
  have hi : s.ifg = .none := h.ifg_of_waiting hw
  have hb : s.busy = true := h.busy_of_waiting hw
  obtain ⟨i, hact, e⟩ | hact := step_agent_cases h.noFault ha e
  · have hagent := agentAction_agent (s := { s with agenda := ts }) hx hi hact
    exact exec_outstanding (s := { s with agenda := ts }) hagent hb e
  · obtain rfl | ⟨a, b, -, rfl⟩ | ⟨rfl, -⟩ := agentAction_settle hact
    · rfl
    · rfl
    · cases hx

/-- A run that answers a state has a first step. -/
theorem step_of_run {k : Nat} (e : Host.Core.run core (k + 1) s = .next t) :
    ∃ u, step s = .next u ∧ Host.Core.run core k u = .next t := by
  cases hs : step s with
  | next u => exact ⟨u, rfl, run_succ k hs ▸ e⟩
  | fault f => cases (run_of_fault k hs).symm.trans e
  | refused r => cases (run_of_refused k hs).symm.trans e

/-- A hung run leaves the transaction, and the invariant holds along it. -/
theorem run_outstanding : ∀ (turns ts : List Turn) {s t : State}, Inv s → s.ph.waitsForBus = true →
    s.agenda = turns ++ ts → (∀ x ∈ turns, x.canUnhang = false) → Host.Core.run core turns.length s = .next t →
    Inv t ∧ t.outstanding = s.outstanding
  | [], _, s, t, h, _, _, _, e => by cases e; exact ⟨h, rfl⟩
  | x :: turns, ts, s, t, h, hw, ha, hx, e => by
    obtain ⟨u, hu, e⟩ := step_of_run e
    have ho : u.outstanding = s.outstanding := step_outstanding h hw ha (hx x (by simp)) hu
    have hph : u.ph = s.ph := congrArg (·.2.1) ho
    have hagenda : u.agenda = turns ++ ts := by rw [step_agenda h.noFault hu, ha]; rfl
    obtain ⟨ht, ho'⟩ := run_outstanding turns ts (step_keeps_inv h hu) (hph ▸ hw) hagenda
      (fun y hy => hx y (List.mem_cons_of_mem x hy)) e
    exact ⟨ht, ho'.trans ho⟩

/-- Settles O57: the run leaves the transaction, so BUSY stays 1, and with it DONE 0 and every command refused. -/
theorem hungBusNeverCompletes : Obligations.HungBusNeverCompletes := by
  intro turns ts s t h hw ha hx e
  obtain ⟨ht, ho⟩ := run_outstanding turns ts h hw ha hx e
  simp only [State.outstanding, Prod.mk.injEq] at ho
  obtain ⟨htxn, hph, -, -, -, -, -, htr, -⟩ := ho
  have hb : t.busy = true := ht.busy_of_waiting (hph ▸ hw)
  have hd : t.done = false := Bool.of_not_eq_true fun hd => ht.done_busy ⟨hd, hb⟩
  exact ⟨hb, hd, hph, htxn, htr, exec_i2cInit_busy hb, exec_i2cWrite_busy hb, exec_i2cReadreg_busy hb⟩

end Sys2Proof.Machine
end

section
/-! Reads and events (20_memory.md section 2, 42_event_channel.md): reads have no side effect (R66), posts coalesce
(R155), a take and a post of one clock (R157), and how takes empty EVBITS (R150, R153). -/

namespace Sys2Proof.Machine

/-! ## Reads (R66) -/

/-- A read without a side effect: it returns a byte of the state that the return itself does not change. -/
def PureRead (i : Instr) : Prop :=
  ∃ f : State → Byte, ∀ s, exec i s = .next (s.returnByte (f s)) ∧ ∀ b, f (s.returnByte b) = f s

/-- The reads at the offsets 0x0 to 0xC (R81). -/
theorem pureRead_decodeFields {c : BitVec 5} (x : Byte) (hc : c ≤ 0x0C#5) : PureRead (decodeFields c x) := by
  unfold decodeFields
  split
  case h_1 | h_13 => exact ⟨fun _ => 0x00, fun _ => ⟨rfl, fun _ => rfl⟩⟩
  case h_2 => exact ⟨State.statusByte, fun _ => ⟨rfl, fun _ => rfl⟩⟩
  case h_3 => exact ⟨fun s => 0#1 ++ s.saddr, fun _ => ⟨rfl, fun _ => rfl⟩⟩
  case h_4 => exact ⟨State.len, fun _ => ⟨rfl, fun _ => rfl⟩⟩
  case h_5 => exact ⟨State.bufl, fun _ => ⟨rfl, fun _ => rfl⟩⟩
  case h_6 => exact ⟨State.bufh, fun _ => ⟨rfl, fun _ => rfl⟩⟩
  case h_7 => exact ⟨State.regidx, fun _ => ⟨rfl, fun _ => rfl⟩⟩
  case h_8 => exact ⟨State.rxdata, fun _ => ⟨rfl, fun _ => rfl⟩⟩
  case h_9 => exact ⟨State.clkdiv, fun _ => ⟨rfl, fun _ => rfl⟩⟩
  case h_10 => exact ⟨fun s => s.cfg.toByte, fun _ => ⟨rfl, fun _ => rfl⟩⟩
  case h_11 => exact ⟨fun s => s.ifg.toByte, fun _ => ⟨rfl, fun _ => rfl⟩⟩
  case h_12 => exact ⟨fun s => eventByte s.evbits, fun _ => ⟨rfl, fun _ => rfl⟩⟩
  case h_32 =>
    -- the last row, left for 0x1F alone
    exfalso
    simp only [imp_false] at *
    bv_omega
  all_goals exact absurd hc (by decide)

/-- Settles O25: a read at such an offset returns a byte and no more, and its return does not change what a second read
returns. -/
theorem readsHaveNoSideEffect : Obligations.ReadsHaveNoSideEffect := by
  intro off x s ho
  have hc : 0#1 ++ off ≤ 0x0C#5 := by revert off; decide
  obtain ⟨f, hf⟩ := pureRead_decodeFields x hc
  rw [decodeWord_accessWord]
  refine ⟨s.returnByte (f s), (hf s).1, rfl, ?_⟩
  rw [(hf (s.returnByte (f s))).1, (hf s).2]
  rfl

/-! ## Posts and takes (R153, R155) -/

/-- What a take leaves and returns. -/
theorem exec_evTake {x : Byte} {s t : State} (e : exec (.evTake x) s = .next t) :
    t.evbits = takenRest s.evbits ∧ t.rdata = takenByte s.evbits := by
  cases e
  exact ⟨rfl, rfl⟩

/-- Posting what is posted already changes nothing (R155). -/
theorem State.post_idem (s : State) (m : BitVec 4) : (s.post m).post m = s.post m := by
  rw [State.post_post, BitVec.or_self]

/-- The kind whose code a take returned is no longer pending. -/
theorem takenRest_of_takenByte : ∀ (v : BitVec 4) (k : Fin 4), takenByte v = takeCode k →
    (takenRest v).getLsbD k.val = false := by decide

/-- Settles O28: a post is idempotent, and a take clears the kind that its code names. -/
theorem postsOfOneKindCoalesce : Obligations.PostsOfOneKindCoalesce := by
  refine fun s t u v x k => ⟨fun e => ?_, fun m e => ?_, fun e hr => ?_⟩
  · cases e
    exact congrArg Host.Outcome.next (s.post_idem _)
  · cases e
    exact congrArg Host.Outcome.next (s.post_idem m)
  · obtain ⟨hrest, hbyte⟩ := exec_evTake e
    rw [hrest]
    exact takenRest_of_takenByte t.evbits k (hbyte.symm.trans hr)

/-! ## A take and a post of one clock (R157) -/

theorem agentAction_take (s : State) : agentAction (.access 8 (readWord 0xD 0x00)) s = .run (.evTake 0x00) :=
  congrArg Action.run (decodeWord_accessWord 0x0D#5 0x00)

theorem agentAction_producer {m : BitVec 4} (hm : m ≠ 0) (s : State) :
    agentAction (.producer m) s = .run (.prodEvIn m) := if_neg hm

/-- Settles O29: the two turns in each order, each an instruction that always answers. -/
theorem takeThenPostKeepsThePost : Obligations.TakeThenPostKeepsThePost := by
  refine fun s m ts hf hm => ⟨fun h => ?_, fun h => ?_⟩
  · exact (run_turn 1 hf h (agentAction_take _) rfl).trans
      (run_turn 0 (ts := ts) hf rfl (agentAction_producer hm _) rfl)
  · exact (run_turn 1 hf h (agentAction_producer hm _) rfl).trans
      (run_turn 0 (ts := ts) hf rfl (agentAction_take _) rfl)

/-! ## Takes with no post between them (R150, R153) -/

theorem eq_zero_of_takenByte : ∀ v : BitVec 4, takenByte v = 0x00 → v = 0 := by decide

/-- The next code is smaller, or there was no event. -/
theorem takenByte_takenRest : ∀ v : BitVec 4, takenByte v = 0x00 ∨ takenByte (takenRest v) < takenByte v := by decide

/-- Each of the four kinds is taken once. -/
theorem takenRest_four : ∀ v : BitVec 4, takenRest (takenRest (takenRest (takenRest v))) = 0 := by decide

/-- Settles O30: each take by what it leaves of EVBITS and returns. -/
theorem drainFallsInPriority : Obligations.DrainFallsInPriority := by
  intro s t u v w x es et eu ev
  obtain ⟨hs, hsb⟩ := exec_evTake es
  obtain ⟨ht, htb⟩ := exec_evTake et
  obtain ⟨hu, -⟩ := exec_evTake eu
  obtain ⟨hv, -⟩ := exec_evTake ev
  rw [hv, hu, ht, htb, hs, hsb]
  exact ⟨takenByte_takenRest s.evbits, eq_zero_of_takenByte s.evbits, takenRest_four s.evbits⟩

end Sys2Proof.Machine
end

section
/-! Complete transactions (41_i2c_bus_engine.md R131, R132, 20_memory.md section 5): the byte that a late store leaves
for the engine, and the runs of a WRITE and of a READREG from their command to their completion. -/

namespace Sys2Proof.Machine

variable {s t u : State}

/-! ## A store before the load (R73) -/

/-- In LOAD TXIF alone is pending, and the enables are 1 (R50 d). -/
theorem Inv.selectedFlag_of_load (h : Inv s) (hp : s.ph = .load) : s.selectedFlag = some .tx := by
  have hi : s.ifg = ⟨false, true, false, false⟩ := by simpa [hp, Ifg.fits] using h.flags
  rw [State.selectedFlag_afterInit (h.cfg_busy (h.busy_of_ph (by simp [hp]))), hi]
  rfl

/-- No flag is pending while no transaction is outstanding (R50). -/
theorem Inv.ifg_of_idle (h : Inv s) (hb : s.busy = false) : s.ifg = .none := by
  apply h.ifg_eq_none <;> simp [h.idle_iff.2 hb]

theorem Inv.src_of_write (h : Inv s) (hc : s.txn.cmd = .write) : s.txn.src = .mem := by
  cases hs : s.txn.src with
  | mem => rfl
  | reg => cases hc.symm.trans (h.src_cmd.1 hs)

/-- `s` after a store of `b` to `buffer[cursor]`, with an engine turn to take. -/
def State.afterStore (s : State) (b : Byte) (ts : List Turn) : State :=
  State.storeByte { s with agenda := .engine :: ts } s.txn.byteAddr b

theorem Inv.byteAt_afterStore (h : Inv s) (a : HostAddr) (b : Byte) (ts : List Turn) :
    (s.afterStore b ts).byteAt a = if a = s.txn.byteAddr then b else s.byteAt a :=
  State.byteAt_storeByte { s with agenda := .engine :: ts } _ a b h.mem_wf

/-- Settles O51: the store is a turn of its own, and the load that follows reads host memory as it then is. -/
theorem lateStoreIsSent : Obligations.LateStoreIsSent := by
  intro s b ts h hp hc hw ha
  have hu : Inv (s.afterStore b ts) := (h.withSchedule (.engine :: ts) s.turns).storeByte _ b
  have hb : (s.afterStore b ts).nextTxByte = some b := by
    rw [State.nextTxByte_mem (hu.src_of_write hc)]
    exact (State.memRead_of_inWindow (s := s.afterStore b ts) hw).trans
      (congrArg some ((h.byteAt_afterStore _ b ts).trans (if_pos rfl)))
  have hs : State.selectedFlag { s.afterStore b ts with agenda := ts } = some .tx := hu.selectedFlag_of_load hp
  have hload := (step_engine_selected hu.noFault rfl hs).trans (exec_engSvcTx_some hs hb)
  exact ⟨_, (run_settle 1 h.noFault ha rfl).trans (run_succ 0 hload), rfl, rfl, rfl, fun a hne =>
    (h.byteAt_afterStore a b ts).trans (if_neg hne)⟩

/-! ## Runs -/

/-- `k` turns lead from `s` to `t`. -/
def Leads (k : Nat) (s t : State) : Prop := Host.Core.run core k s = .next t

theorem Leads.refl (s : State) : Leads 0 s s := rfl

theorem Leads.step {k : Nat} (h : step s = .next t) (hr : Leads k t u) : Leads (k + 1) s u := (run_succ k h).trans hr

theorem Leads.trans : ∀ {j k : Nat} {s t u : State}, Leads j s t → Leads k t u → Leads (j + k) s u
  | 0, k, s, t, u, h, hr => by
    cases h
    rwa [Nat.zero_add]
  | j + 1, k, s, t, u, h, hr => by
    obtain ⟨v, hv, h⟩ := step_of_run h
    rw [Nat.add_right_comm]
    exact .step hv (Leads.trans h hr)

/-! ## The turns of a transaction -/

/-- `s` with its transaction on the bus: phase, flags, cursor, TXSHIFT and TRACE, and the turns to come. -/
def State.onBus (s : State) (p : Phase) (f : Ifg) (c b : Byte) (tr : List Sym) (ts : List Turn) : State :=
  { s with ph := p, ifg := f, txn := { s.txn with cursor := c }, txshift := b, trace := tr, agenda := ts }

/-- TXIF alone, in LOAD. -/
def Ifg.tx : Ifg := ⟨false, true, false, false⟩

/-- STPIF alone, in HOLD. -/
def Ifg.stop : Ifg := ⟨false, false, true, false⟩

/-- NACKIF alone, in HOLD. -/
def Ifg.nack : Ifg := ⟨false, false, false, true⟩

/-- RXIF and STPIF, in HOLD after the byte of a read. -/
def Ifg.rxStop : Ifg := ⟨true, false, true, false⟩

section
variable {c b b' v : Byte} {tr : List Sym} {ts : List Turn}

/-- A turn on the bus that comes to an instruction. -/
theorem step_onBus_run (hf : s.faults = []) {p : Phase} {f : Ifg} {x : Turn} {i : Instr}
    (ha : agentAction x (s.onBus p f c b tr ts) = .run i) :
    step (s.onBus p f c b tr (x :: ts)) = exec i (s.onBus p f c b tr ts) :=
  step_agent_run (s := s.onBus p f c b tr (x :: ts)) hf rfl ha

/-! ### The bus (R122 to R124) -/

theorem step_addrNack (hf : s.faults = []) : step (s.onBus .addr .none c b tr (.bus false v :: ts)) =
    .next (s.onBus .hold .nack c b (tr ++ [Sym.a s.txn.addressByte false, Sym.p]) ts) := by
  obtain ⟨-, hnack, -⟩ := addressAnswerMovesThePhase (s.onBus .addr .none c b tr ts) rfl
  exact (step_onBus_run hf rfl).trans hnack

theorem step_addrAck_write (hf : s.faults = []) (hd : s.txn.dir = .write) :
    step (s.onBus .addr .none c b tr (.bus true v :: ts)) =
      .next (s.onBus .load .tx c b (tr ++ [Sym.a s.txn.addressByte true]) ts) := by
  obtain ⟨-, -, hack, -⟩ := addressAnswerMovesThePhase (s.onBus .addr .none c b tr ts) rfl
  exact (step_onBus_run hf rfl).trans (hack hd)

theorem step_addrAck_read (hf : s.faults = []) (hd : s.txn.dir = .read) :
    step (s.onBus .addr .none c b tr (.bus true v :: ts)) =
      .next (s.onBus .rxbyte .none c b (tr ++ [Sym.a s.txn.addressByte true]) ts) := by
  obtain ⟨-, -, -, hack⟩ := addressAnswerMovesThePhase (s.onBus .addr .none c b tr ts) rfl
  exact (step_onBus_run hf rfl).trans (hack hd)

theorem step_dataNack (hf : s.faults = []) : step (s.onBus .txbyte .none c b tr (.bus false v :: ts)) =
    .next (s.onBus .hold .nack c b (tr ++ [Sym.d b false, Sym.p]) ts) := by
  obtain ⟨hnack, -⟩ := dataAnswerMovesThePhase (s.onBus .txbyte .none c b tr ts) rfl
  exact (step_onBus_run hf rfl).trans hnack

theorem step_dataAck_more (hf : s.faults = []) (hc : c < s.txn.len) :
    step (s.onBus .txbyte .none c b tr (.bus true v :: ts)) =
      .next (s.onBus .load .tx c b (tr ++ [Sym.d b true]) ts) := by
  obtain ⟨-, hmore, -⟩ := dataAnswerMovesThePhase (s.onBus .txbyte .none c b tr ts) rfl
  exact (step_onBus_run hf rfl).trans (hmore hc)

theorem step_dataAck_last (hf : s.faults = []) (hc : s.txn.len ≤ c) :
    step (s.onBus .txbyte .none c b tr (.bus true v :: ts)) =
      .next (s.onBus .hold .stop c b (tr ++ [Sym.d b true, Sym.p]) ts) := by
  obtain ⟨-, -, hlast⟩ := dataAnswerMovesThePhase (s.onBus .txbyte .none c b tr ts) rfl
  exact (step_onBus_run hf rfl).trans (hlast hc)

theorem step_rxByte (hf : s.faults = []) {k : Bool} : step (s.onBus .rxbyte .none c b tr (.bus k v :: ts)) =
    .next (State.onBus { s with rxshift := v } .hold .rxStop c b (tr ++ [Sym.r v, Sym.p]) ts) :=
  (step_onBus_run hf rfl).trans (receivedByteRaisesBothFlags (s.onBus .rxbyte .none c b tr ts) v rfl)

/-! ### The engine (R126 to R130) -/

/-- After INIT the flags alone select the service. -/
theorem onBus_selectedFlag (hc : s.cfg = .afterInit) (p : Phase) (f : Ifg) :
    (s.onBus p f c b tr ts).selectedFlag = if f.rxif then some .rx else if f.txif then some .tx
      else if f.nackif then some .nack else if f.stpif then some .stop else none :=
  State.selectedFlag_afterInit (s := s.onBus p f c b tr ts) hc

theorem step_onBus_engine (hf : s.faults = []) {p : Phase} {f : Ifg} {g : Flag}
    (hs : (s.onBus p f c b tr ts).selectedFlag = some g) :
    step (s.onBus p f c b tr (.engine :: ts)) = exec g.service (s.onBus p f c b tr ts) :=
  step_onBus_run hf (engineAction_of_selected hs)

theorem step_load (hf : s.faults = []) (hc : s.cfg = .afterInit)
    (hb : (s.onBus .load .tx c b tr ts).nextTxByte = some b') :
    step (s.onBus .load .tx c b tr (.engine :: ts)) = .next (s.onBus .txbyte .none (c + 1) b' tr ts) := by
  have hs : (s.onBus .load .tx c b tr ts).selectedFlag = some .tx := onBus_selectedFlag hc ..
  exact (step_onBus_engine hf hs).trans (exec_engSvcTx_some hs hb)

theorem step_svcRx (hf : s.faults = []) (hc : s.cfg = .afterInit) :
    step (s.onBus .hold .rxStop c b tr (.engine :: ts)) =
      .next (State.onBus { s with rxdata := s.rxshift } .hold .stop c b tr ts) := by
  have hs : (s.onBus .hold .rxStop c b tr ts).selectedFlag = some .rx := onBus_selectedFlag hc ..
  exact (step_onBus_engine hf hs).trans (receiveServiceFillsRxdata _ hs)

/-- The STOP service ends the transaction, or the stage W of a READREG. -/
theorem step_svcStop (hf : s.faults = []) (hc : s.cfg = .afterInit) :
    step (s.onBus .hold .stop c b tr (.engine :: ts)) = .next ((s.onBus .hold .none c b tr ts).complete .stop) := by
  have hs : (s.onBus .hold .stop c b tr ts).selectedFlag = some .stop := onBus_selectedFlag hc ..
  exact (step_onBus_engine hf hs).trans (exec_engSvcStop_selected hs)

theorem step_svcStop_final (hf : s.faults = []) (hc : s.cfg = .afterInit)
    (hl : s.txn.cmd ≠ .readreg ∨ s.txn.stage ≠ .w) :
    step (s.onBus .hold .stop c b tr (.engine :: ts)) = .next ((s.onBus .hold .none c b tr ts).finish .stop) :=
  (step_svcStop hf hc).trans (congrArg Host.Outcome.next (State.complete_final .stop hl))

theorem step_svcStop_stageW (hf : s.faults = []) (hc : s.cfg = .afterInit) (hr : s.txn.cmd = .readreg)
    (hw : s.txn.stage = .w) : step (s.onBus .hold .stop c b tr (.engine :: ts)) =
      .next (State.onBus { s with txn := s.txn.readStage } .addr .none 0 b (tr ++ [Sym.s]) ts) :=
  (step_svcStop hf hc).trans (congrArg Host.Outcome.next (State.complete_stageW .stop hr hw))

/-- The NACK service ends them too, and records the NACK. -/
theorem step_svcNack (hf : s.faults = []) (hc : s.cfg = .afterInit) :
    step (s.onBus .hold .nack c b tr (.engine :: ts)) =
      .next ((State.onBus { s with nackseen := true } .hold .none c b tr ts).complete .nack) := by
  have hs : (s.onBus .hold .nack c b tr ts).selectedFlag = some .nack := onBus_selectedFlag hc ..
  exact (step_onBus_engine hf hs).trans (exec_engSvcNack_selected hs)

theorem step_svcNack_final (hf : s.faults = []) (hc : s.cfg = .afterInit)
    (hl : s.txn.cmd ≠ .readreg ∨ s.txn.stage ≠ .w) : step (s.onBus .hold .nack c b tr (.engine :: ts)) =
      .next ((State.onBus { s with nackseen := true } .hold .none c b tr ts).finish .nack) :=
  (step_svcNack hf hc).trans (congrArg Host.Outcome.next (State.complete_final .nack hl))

theorem step_svcNack_stageW (hf : s.faults = []) (hc : s.cfg = .afterInit) (hr : s.txn.cmd = .readreg)
    (hw : s.txn.stage = .w) : step (s.onBus .hold .nack c b tr (.engine :: ts)) =
      .next (State.onBus { s with txn := s.txn.readStage, nackseen := true } .addr .none 0 b (tr ++ [Sym.s]) ts) :=
  (step_svcNack hf hc).trans (congrArg Host.Outcome.next (State.complete_stageW .nack hr hw))

end

/-- A command, where it is issued: START and the address byte to come (R102, R103). -/
theorem issue_onBus (hi : s.ifg = .none) (x : Transaction) (hx : x.cursor = 0) (ts : List Turn) :
    State.issue { s with agenda := ts } x = (s.issue x).onBus .addr .none 0 s.txshift (s.trace ++ [Sym.s]) ts := by
  rw [← hi, ← hx]
  rfl

/-! ## WRITE (R131) -/

theorem dataTurns_succ : ∀ n, dataTurns (n + 1) = dataTurns n ++ [Turn.engine, Turn.bus true 0x00]
  | 0 => rfl
  | n + 1 => congrArg (Turn.engine :: Turn.bus true 0x00 :: ·) (dataTurns_succ n)

theorem addr_add_one_add (a : HostAddr) (n : Nat) : a + 1 + BitVec.ofNat 16 n = a + BitVec.ofNat 16 (n + 1) := by
  rw [BitVec.ofNat_add, BitVec.add_assoc, BitVec.add_comm 1]
  rfl

theorem dataSyms_succ (s : State) : ∀ (n : Nat) (a : HostAddr),
    dataSyms s a (n + 1) = dataSyms s a n ++ [Sym.d (s.byteAt (a + BitVec.ofNat 16 n)) true]
  | 0, a => by simp [dataSyms]
  | n + 1, a => by
    rw [dataSyms, dataSyms_succ s n (a + 1), addr_add_one_add]
    rfl

theorem windowHolds_succ (s : State) : ∀ (n : Nat) (a : HostAddr), windowHolds s a (n + 1) =
    (windowHolds s a n && s.par.inWindow (a + BitVec.ofNat 16 n))
  | 0, a => by simp [windowHolds]
  | n + 1, a => by
    rw [windowHolds, windowHolds_succ s n (a + 1), addr_add_one_add, ← Bool.and_assoc]
    rfl

/-- Issuing a command leaves host memory and MEMWIN. -/
theorem dataSyms_issue (s : State) (x : Transaction) : ∀ (n : Nat) (a : HostAddr),
    dataSyms (s.issue x) a n = dataSyms s a n
  | 0, _ => rfl
  | n + 1, a => congrArg (Sym.d (s.byteAt a) true :: ·) (dataSyms_issue s x n (a + 1))

theorem windowHolds_issue (s : State) (x : Transaction) : ∀ (n : Nat) (a : HostAddr),
    windowHolds (s.issue x) a n = windowHolds s a n
  | 0, _ => rfl
  | n + 1, a => congrArg (s.par.inWindow a && ·) (windowHolds_issue s x n (a + 1))

section
variable {b : Byte} {tr : List Sym} {ts : List Turn}

/-- The engine loads byte `i` of the buffer (R127). -/
theorem step_loadByte (hf : s.faults = []) (hc : s.cfg = .afterInit) (hm : s.txn.src = .mem) {i : Nat} (hi : i < 256)
    (hw : s.par.inWindow (s.txn.buf + BitVec.ofNat 16 i) = true) :
    step (s.onBus .load .tx (BitVec.ofNat 8 i) b tr (.engine :: ts)) =
      .next (s.onBus .txbyte .none (BitVec.ofNat 8 (i + 1)) (s.byteAt (s.txn.buf + BitVec.ofNat 16 i)) tr ts) := by
  have ha : (s.onBus .load .tx (BitVec.ofNat 8 i) b tr ts).txn.byteAddr = s.txn.buf + BitVec.ofNat 16 i := by
    have hz : (BitVec.ofNat 8 i).setWidth 16 = BitVec.ofNat 16 i := by
      apply BitVec.eq_of_toNat_eq
      rw [BitVec.toNat_setWidth, BitVec.toNat_ofNat, BitVec.toNat_ofNat]
      omega
    exact congrArg (s.txn.buf + ·) hz
  refine (step_load hf hc ?_).trans (by rw [BitVec.ofNat_add]; rfl)
  rw [State.nextTxByte_mem (s := s.onBus .load .tx (BitVec.ofNat 8 i) b tr ts) hm, ha]
  exact State.memRead_of_inWindow hw

/-- The data bytes before the last: `j` rounds, each a load and an ACK. -/
theorem leads_dataTurns (hf : s.faults = []) (hc : s.cfg = .afterInit) (hm : s.txn.src = .mem) :
    ∀ {j : Nat} (ts : List Turn), j < s.txn.len.toNat → windowHolds s s.txn.buf j = true →
      ∃ b', Leads (2 * j) (s.onBus .load .tx 0 b tr (dataTurns j ++ ts))
        (s.onBus .load .tx (BitVec.ofNat 8 j) b' (tr ++ dataSyms s s.txn.buf j) ts)
  | 0, ts, _, _ => ⟨b, by rw [dataSyms, List.append_nil]; exact .refl _⟩
  | j + 1, ts, hj, hw => by
    obtain ⟨hw, hlast⟩ := Bool.and_eq_true_iff.1 (windowHolds_succ s j s.txn.buf ▸ hw)
    obtain ⟨b', hr⟩ := leads_dataTurns hf hc hm (.engine :: .bus true 0x00 :: ts) (Nat.lt_of_succ_lt hj) hw
    have hlt : BitVec.ofNat 8 (j + 1) < s.txn.len := by bv_omega
    rw [dataTurns_succ, List.append_assoc, dataSyms_succ, ← List.append_assoc tr]
    exact ⟨_, hr.trans (.step (step_loadByte hf hc hm (by omega) hlast) (.step (step_dataAck_more hf hlt) (.refl _)))⟩

/-- From the address to byte `j` on the bus: the slave answers the address and the `j` bytes before with ACK. -/
theorem leads_writeBytes (hf : s.faults = []) (hc : s.cfg = .afterInit) (hm : s.txn.src = .mem)
    (hd : s.txn.dir = .write) {j : Nat} (hj : j < s.txn.len.toNat) (hw : windowHolds s s.txn.buf (j + 1) = true) :
    Leads (2 * j + 2) (s.onBus .addr .none 0 b tr (.bus true 0x00 :: (dataTurns j ++ .engine :: ts)))
      (s.onBus .txbyte .none (BitVec.ofNat 8 (j + 1)) (s.byteAt (s.txn.buf + BitVec.ofNat 16 j))
        (tr ++ [Sym.a s.txn.addressByte true] ++ dataSyms s s.txn.buf j) ts) := by
  obtain ⟨hw, hlast⟩ := Bool.and_eq_true_iff.1 (windowHolds_succ s j s.txn.buf ▸ hw)
  obtain ⟨b', hr⟩ := leads_dataTurns hf hc hm (.engine :: ts) hj hw
  exact .step (step_addrAck_write hf hd) (hr.trans (.step (step_loadByte hf hc hm (by omega) hlast) (.refl _)))

end

/-- The WRITE command of a state after INIT, from its access to its START (R102). -/
theorem step_writeCommand (h : Inv s) (hb : s.busy = false) (hc : s.cfg = .afterInit) (hl : s.len ≠ 0)
    (hr : (s.bufh ++ s.bufl).toNat + s.len.toNat ≤ 0x10000) {ts : List Turn} (ha : s.agenda = .access 8 0x1002 :: ts) :
    step s = .next ((s.issue s.writeTransaction).onBus .addr .none 0 s.txshift (s.trace ++ [Sym.s]) ts) := by
  have hm : s.cfg.mst = true := by rw [hc]; rfl
  obtain ⟨hword, hcmd⟩ := writeCommandStartsTransaction
  obtain ⟨-, -, -, -, hstart⟩ := hcmd { s with agenda := ts }
  rw [stepRunsAccessWord s _ ts h.noFault ha, hword, ← issue_onBus (h.ifg_of_idle hb) s.writeTransaction rfl]
  exact hstart hb hm hl hr

/-- From the WRITE command to data byte `j` on the bus, every answer an ACK (R131). -/
theorem leads_writeCommand (h : Inv s) (hb : s.busy = false) (hc : s.cfg = .afterInit) (hl : s.len ≠ 0)
    (hr : (s.bufh ++ s.bufl).toNat + s.len.toNat ≤ 0x10000) {j : Nat} (hj : j < s.len.toNat)
    (hw : windowHolds s (s.bufh ++ s.bufl) (j + 1) = true) {ts : List Turn}
    (ha : s.agenda = .access 8 0x1002 :: .bus true 0x00 :: (dataTurns j ++ .engine :: ts)) :
    Leads (2 * j + 3) s ((s.issue s.writeTransaction).onBus .txbyte .none (BitVec.ofNat 8 (j + 1))
      (s.byteAt (s.bufh ++ s.bufl + BitVec.ofNat 16 j))
      (s.trace ++ [Sym.s, Sym.a (s.saddr ++ 0#1) true] ++ dataSyms s (s.bufh ++ s.bufl) j) ts) := by
  have htr : s.trace ++ [Sym.s, Sym.a (s.saddr ++ 0#1) true] =
      s.trace ++ [Sym.s] ++ [Sym.a (s.saddr ++ 0#1) true] := List.append_cons ..
  rw [htr, ← dataSyms_issue s s.writeTransaction]
  rw [← windowHolds_issue s s.writeTransaction] at hw
  exact .step (step_writeCommand h hb hc hl hr ha)
    (leads_writeBytes (s := s.issue s.writeTransaction) h.noFault hc rfl rfl hj hw)

/-- Settles O54: the last byte is answered ACK with the cursor at the length, so the STOP service follows. -/
theorem ackedWriteSendsTheBuffer : Obligations.AckedWriteSendsTheBuffer := by
  intro s ts h hb hc hl hr hw ha
  obtain ⟨m, hm⟩ : ∃ m, s.len.toNat = m + 1 := Nat.exists_eq_succ_of_ne_zero (by bv_omega)
  have hlast : (s.issue s.writeTransaction).txn.len ≤ BitVec.ofNat 8 (m + 1) :=
    (by bv_omega : s.len ≤ BitVec.ofNat 8 (m + 1))
  have hf : (s.issue s.writeTransaction).faults = [] := h.noFault
  have hc' : (s.issue s.writeTransaction).cfg = .afterInit := hc
  have hfin : (s.issue s.writeTransaction).txn.cmd ≠ .readreg := nofun
  rw [hm] at hw ha ⊢
  have hturns : writeTurns (m + 1) ++ ts =
      .bus true 0x00 :: (dataTurns m ++ .engine :: .bus true 0x00 :: .engine :: ts) := by
    simp [writeTurns, dataTurns_succ]
  rw [hturns] at ha
  have hrun := (leads_writeCommand h hb hc hl hr (by omega) hw ha).trans
    (.step (step_dataAck_last hf hlast) (.step (step_svcStop_final hf hc' (.inl hfin)) (.refl _)))
  refine ⟨_, hrun, ?_, rfl, rfl, rfl, rfl, rfl, rfl, rfl, rfl, rfl, rfl⟩
  rw [dataSyms_succ]
  simp [State.onBus]

/-- Settles O55: the NACK of the address, and of byte `j` once it is on the bus, each with the NACK service after it. -/
theorem nackedWriteStopsThere : Obligations.NackedWriteStopsThere := by
  intro s ts h hb hc hl hr
  have hf : (s.issue s.writeTransaction).faults = [] := h.noFault
  have hc' : (s.issue s.writeTransaction).cfg = .afterInit := hc
  have hfin : (s.issue s.writeTransaction).txn.cmd ≠ .readreg := nofun
  refine ⟨fun ha => ?_, fun j hj hw ha => ?_⟩
  · have hrun := Leads.step (step_writeCommand h hb hc hl hr ha)
      (.step (step_addrNack hf) (.step (step_svcNack_final hf hc' (.inl hfin)) (.refl _)))
    exact ⟨_, hrun, List.append_assoc .., rfl, rfl, rfl, rfl, rfl, rfl, rfl, rfl, rfl⟩
  · have hturns : writeNackTurns j ++ ts =
        .bus true 0x00 :: (dataTurns j ++ .engine :: .bus false 0x00 :: .engine :: ts) := by
      simp [writeNackTurns]
    rw [hturns] at ha
    have hrun := (leads_writeCommand h hb hc hl hr hj hw ha).trans
      (.step (step_dataNack hf) (.step (step_svcNack_final hf hc' (.inl hfin)) (.refl _)))
    exact ⟨_, hrun, rfl, rfl, rfl, rfl, rfl, rfl, rfl, rfl, rfl⟩

/-! ## READREG (R132) -/

/-- The READREG command of a state after INIT, from its access to its START (R103). -/
theorem step_readregCommand (h : Inv s) (hb : s.busy = false) (hc : s.cfg = .afterInit) {ts : List Turn}
    (ha : s.agenda = .access 8 0x1003 :: ts) : step s =
      .next ((s.issue s.readregTransaction).onBus .addr .none 0 s.txshift (s.trace ++ [Sym.s]) ts) := by
  have hm : s.cfg.mst = true := by rw [hc]; rfl
  obtain ⟨hword, hcmd⟩ := readregCommandStartsStageW
  obtain ⟨-, -, hstart⟩ := hcmd { s with agenda := ts }
  rw [stepRunsAccessWord s _ ts h.noFault ha, hword, ← issue_onBus (h.ifg_of_idle hb) s.readregTransaction rfl]
  exact hstart hb hm

/-- `s` with the transaction of its READREG command in stage R, and the NACK of stage W recorded if there was one. -/
def State.inReadStage (s : State) (n : Bool) : State :=
  { s.issue s.readregTransaction with txn := s.readregTransaction.readStage, nackseen := n }

/-- The register index on the bus: the address answered ACK, and the one byte loaded from `T.reg` (R127). -/
theorem leads_index (hf : s.faults = []) (hc : s.cfg = .afterInit) (b : Byte) (tr : List Sym) (ts : List Turn) :
    Leads 2 ((s.issue s.readregTransaction).onBus .addr .none 0 b tr (.bus true 0x00 :: .engine :: ts))
      ((s.issue s.readregTransaction).onBus .txbyte .none 1 s.regidx (tr ++ [Sym.a (s.saddr ++ 0#1) true]) ts) :=
  .step (step_addrAck_write hf rfl) (.step (step_load hf hc (State.nextTxByte_reg rfl)) (.refl _))

/-- Stage W, whatever it comes to, leads to the START of stage R (R130). -/
theorem leads_stageW (hf : s.faults = []) (hc : s.cfg = .afterInit) (w : IndexWrite) (b : Byte) (tr : List Sym)
    (ts : List Turn) : ∃ b', Leads w.turns.length
      ((s.issue s.readregTransaction).onBus .addr .none 0 b (tr ++ [Sym.s]) (w.turns ++ ts))
      ((s.inReadStage w.nacked).onBus .addr .none 0 b' (tr ++ w.syms s.saddr s.regidx ++ [Sym.s]) ts) := by
  cases w with
  | acked =>
    have htr : tr ++ IndexWrite.acked.syms s.saddr s.regidx =
        tr ++ [Sym.s] ++ [Sym.a (s.saddr ++ 0#1) true] ++ [Sym.d s.regidx true, Sym.p] := by simp [IndexWrite.syms]
    rw [htr]
    exact ⟨_, (leads_index hf hc b _ _).trans (.step (step_dataAck_last hf (BitVec.le_refl 1#8))
      (.step (step_svcStop_stageW hf hc rfl rfl) (.refl _)))⟩
  | addressNacked =>
    have htr : tr ++ IndexWrite.addressNacked.syms s.saddr s.regidx =
        tr ++ [Sym.s] ++ [Sym.a (s.saddr ++ 0#1) false, Sym.p] := by simp [IndexWrite.syms]
    rw [htr]
    exact ⟨_, .step (step_addrNack hf) (.step (step_svcNack_stageW hf hc rfl rfl) (.refl _))⟩
  | indexNacked =>
    have htr : tr ++ IndexWrite.indexNacked.syms s.saddr s.regidx =
        tr ++ [Sym.s] ++ [Sym.a (s.saddr ++ 0#1) true] ++ [Sym.d s.regidx false, Sym.p] := by simp [IndexWrite.syms]
    rw [htr]
    exact ⟨_, (leads_index hf hc b _ _).trans (.step (step_dataNack hf)
      (.step (step_svcNack_stageW hf hc rfl rfl) (.refl _)))⟩

/-- Stage R answered ACK: the byte, the receive service and the STOP service (R124, R126, R129). -/
theorem leads_stageR (hf : s.faults = []) (hc : s.cfg = .afterInit) (n : Bool) (v b : Byte) (tr : List Sym)
    (ts : List Turn) : Leads 4 ((s.inReadStage n).onBus .addr .none 0 b tr (readTurns v ++ ts))
      (State.finish (State.onBus { s.inReadStage n with rxshift := v, rxdata := v } .hold .none 0 b
        (tr ++ [Sym.a (s.saddr ++ 1#1) true] ++ [Sym.r v, Sym.p]) ts) .stop) := by
  have hf' : (s.inReadStage n).faults = [] := hf
  have hc' : (s.inReadStage n).cfg = .afterInit := hc
  have hs : (s.inReadStage n).txn.stage ≠ .w := nofun
  exact .step (step_addrAck_read hf' rfl) (.step (step_rxByte hf') (.step (step_svcRx hf' hc')
    (.step (step_svcStop_final hf' hc' (.inr hs)) (.refl _))))

/-- Stage R answered NACK (R122, R128). -/
theorem leads_stageR_nack (hf : s.faults = []) (hc : s.cfg = .afterInit) (n : Bool) (b : Byte) (tr : List Sym)
    (ts : List Turn) : Leads 2 ((s.inReadStage n).onBus .addr .none 0 b tr (readNackTurns ++ ts))
      (State.finish (State.onBus { s.inReadStage n with nackseen := true } .hold .none 0 b
        (tr ++ [Sym.a (s.saddr ++ 1#1) false, Sym.p]) ts) .nack) :=
  .step (step_addrNack hf) (.step (step_svcNack_final hf hc (.inr nofun)) (.refl _))

/-- Settles O56: the command, stage W in each of its three ways, and stage R with the slave's ACK and with its NACK. -/
theorem readregReturnsTheByte : Obligations.ReadregReturnsTheByte := by
  refine fun s w v ts h hb hc => ⟨fun ha => ?_, fun ha => ?_⟩
  all_goals
    rw [List.append_assoc] at ha
    obtain ⟨b, hw⟩ := leads_stageW h.noFault hc w s.txshift s.trace _
    have hrun := Leads.step (step_readregCommand h hb hc ha) hw
  · exact ⟨_, hrun.trans (leads_stageR h.noFault hc w.nacked v b _ ts), by simp [State.onBus], rfl, rfl, rfl, rfl, rfl,
      rfl, rfl, rfl⟩
  · exact ⟨_, hrun.trans (leads_stageR_nack h.noFault hc w.nacked b _ ts), by simp [State.onBus], rfl, rfl, rfl, rfl,
      rfl, rfl, rfl, rfl⟩

end Sys2Proof.Machine
end
